-- ==== Sys2Proof/Word.lean ====
section
/-!
DEFINITION. The words of the Plynast 9 and their plainest arithmetic (R7: little-endian, bit 0 least significant).
-/

namespace Sys2Proof

/-- One byte of any memory. -/
abbrev Byte := BitVec 8

/-- A lane word of a vector token or register (R50, R163). -/
abbrev Word32 := BitVec 32

/-- A scalar token or register (R50, R188). -/
abbrev Word64 := BitVec 64

/-- Bits `[hi:lo]` of a number, as the spec writes `x<hi:lo>`. -/
def bits (x hi lo : Nat) : Nat := x / 2 ^ lo % 2 ^ (hi + 1 - lo)

/-- Bit `i` of a number. -/
def bit (x i : Nat) : Bool := x / 2 ^ i % 2 == 1

/-- The signed value of the low `w` bits of a number. -/
def signed (w x : Nat) : Int :=
  let y := x % 2 ^ w
  if y < 2 ^ (w - 1) then (y : Int) else (y : Int) - 2 ^ w

/-- The low `w` bits of an integer, as a number. -/
def wrap (w : Nat) (x : Int) : Nat := (x % (2 ^ w : Int)).toNat

/-- `n` rounded up to a multiple of `m`. -/
def roundUp (n m : Nat) : Nat := (n + (m - 1)) / m * m

end Sys2Proof
end

