-- ==== Sys2Proof/Config.lean ====
section
/-!
DEFINITION. What the spec leaves open, as opaque constants: no proof can see a value of one of them
(notes/assumptions 2, 4, 7 to 10, 12, 20 to 23, 87 and 101).
-/

namespace Sys2Proof

namespace Config

/-- The n-th free value the machine takes (an undefined value of the spec: log 4). -/
opaque freeValue : Nat → Nat

/-- The n-th free choice of the order of events of different agents (log 2). -/
opaque pick : Nat → Nat

/-- Mac(KCAP, message) of R255 and R270 in one power cycle, as a number the user takes 32 or 64 bits of (log 7). -/
opaque mac : Nat → List Nat → Nat

/-- What a byte of a unit enciphered under one key, or under none, reads as under another: keys, address and the bytes of the unit (R91,
R310; log 8). -/
opaque noise : Option Nat → Nat → Nat → List Byte → Byte

/-- Operand SRAM bytes that no one has written (R91; log 9). -/
opaque opsContent : Nat → Byte

/-- Bits of VRCP, VRSQ, VEXP2 and VLOG2 within the accuracy of R178 (function 0 to 3, operand; log 20). -/
opaque special : Nat → Nat → Nat

/-- HBM bank and HBM bank row of a physical address within its stack (R119 gives only the stack; log 21). -/
opaque hbmBank : Nat → Nat
opaque hbmRow : Nat → Nat

/-- The pseudo-channel of an HBM bank of the module, which the spec does not give (log 21). -/
opaque hbmChannel : Nat → Nat

/-- Word line of a local SRAM address within its bank, and OPA column of an accumulator error (R390; log 21). -/
opaque wordLine : Nat → Nat

/-- Mesh hops between two cores (R87), which the spec's chapters do not give as a formula (log 22). -/
opaque meshHops : Nat → Nat → Nat

/-- SPDM and TDISP responses that rest on keys and certificates: responder, request, counter (log 10). -/
opaque spdmBytes : Nat → Nat → Nat → Nat

/-- A measurement digest (R318): responder, index, what is measured beside the code (log 10). -/
opaque measure : Nat → Nat → List Nat → Nat

/-- Module power in watts in a millisecond at an arithmetic clock (R326; log 12). -/
opaque power : Nat → Nat → Nat

/-- The boot bundle in the serial flash, and the offset in the LPDDR node at which the ROM leaves it (R325; log 101). -/
opaque bundle : List Byte
opaque bundleAt : Nat

/-- The regions in which an HBM bank row lies (R376), and the length of a refresh interval in ns (R378), which the spec does not give (log 21). -/
opaque rowRegions : Nat → List Nat
opaque refreshInterval : Nat

/-- The heartbeat period of an SPDM session in ns (R400), which the spec does not give (log 10). -/
opaque heartbeatPeriod : Nat

/-- Spare HBM bank rows of a stack at reset (R379; log 12). -/
opaque spareRows : Nat → Nat

/-- The 64-bit hash of R363 over a message (log 23). -/
opaque hash64 : List Nat → Nat

end Config

end Sys2Proof
end

