-- ==== Sys2Proof/Syntax.lean ====
section
/-!
DEFINITION. The syntax of the Plynast 9: one constructor of `Instr` for each of the 260 rows of the opcode table, the 138
encoded instructions of blocks (R196 to R202) with the fields of their encodings, then the 122 steps (spec/95), which
have no encoding and carry what they act on.
-/

namespace Sys2Proof

/-- A target (R186): KIND in bits 7:6, INDEX in bits 5:0. -/
abbrev Target := BitVec 8

/-- The P field (R197); code 3 is reserved. -/
inductive Pred where
  | always | onTrue | onFalse
  deriving DecidableEq, Repr

/-- The X field (R198): `row` is 0b00, the row's mode or wrap; `rne` is also saturation of integer operations. -/
inductive XMode where
  | row | rne | rtz | srne
  deriving DecidableEq, Repr

/-- The lane type codes 0 to 14 of the T field (R199); code 15 is reserved. -/
inductive LaneType where
  | i32 | n32 | i16x2 | n16x2 | i8x4 | n8x4 | fp32 | bf16x2 | fp16x2 | e4m3x4 | e5m2x4 | e2m1x8 | dm8x4 | i64 | n64
  deriving DecidableEq, Repr

/-- The short types of STYPE (R200). -/
inductive ShortType where
  | i32 | n32 | fp32 | bf16x2 | fp16x2 | i8x4 | e4m3x4 | dm8x4
  deriving DecidableEq, Repr

/-- The full type a short type stands for (R200). -/
def ShortType.lane : ShortType → LaneType
  | .i32 => .i32 | .n32 => .n32 | .fp32 => .fp32 | .bf16x2 => .bf16x2
  | .fp16x2 => .fp16x2 | .i8x4 => .i8x4 | .e4m3x4 => .e4m3x4 | .dm8x4 => .dm8x4

/-- The instructions and steps, in the order of the opcode table. -/
inductive Instr where
  /-- `BR` (R206): Exit that sets PC to the encoded target block at the boundary. -/
  | br (off : BitVec 18) (p : Pred)
  /-- `BRX` (R206): Exit that sets PC to the block address in slot A. -/
  | brx (p : Pred)
  /-- `CALL` (R206): Exit that writes the fall-through address to s7 and branches to the target. -/
  | call (off : BitVec 18) (p : Pred)
  /-- `LOOP` (R207): Exit that pushes a loop stack entry with the count in slot A and enters the body. -/
  | loop (off : BitVec 18) (p : Pred)
  /-- `ENDL` (R207): Exit that counts the top loop entry down and either repeats the body or pops the entry. -/
  | endl (p : Pred)
  /-- `BRKL` (R207): Exit that pops the top loop entry and branches to the target. -/
  | brkl (off : BitVec 18) (p : Pred)
  /-- `WAITB` (R209): Exit that continues, or makes the row wait, until a barrier object reaches the phase in slot B. -/
  | waitb (off : BitVec 18) (p : Pred)
  /-- `WAITE` (R209): Exit that waits on a cluster event line as the line's kind gives. -/
  | waite (off : BitVec 18) (p : Pred)
  /-- `WAITQR` (R209): Exit that waits until a stage queue has a free entry. -/
  | waitqr (off : BitVec 18) (p : Pred)
  /-- `WAITQD` (R209): Exit that waits until a stage queue holds an entry. -/
  | waitqd (off : BitVec 18) (p : Pred)
  /-- `YIELD` (R211): Exit that makes the row ready at the target and closes it. -/
  | yield (off : BitVec 18) (p : Pred)
  /-- `HALT` (R212): Exit that sets PC to the target and makes the row halted. -/
  | halt (off : BitVec 18) (p : Pred)
  /-- `TRAP` (R213): Exit that commits its block and takes a trap with code 0x8000 + n. -/
  | trap (code : BitVec 15) (p : Pred)
  /-- `EFENCE` (R214): Exit whose block commits only once the outstanding count is 0; it raises a pending condition or continues. -/
  | efence (off : BitVec 18) (p : Pred)
  /-- `SPLICE` (R217): Exit that ends a task, hands its views to the merge and makes the row idle. -/
  | splice (p : Pred)
  /-- `FORKR` (R215): Exit that forks tasks over subranges of [0, N) and makes the parent wait on the join cell. -/
  | forkr (off : BitVec 18) (p : Pred)
  /-- `MOVI` (R219): Delivers the sign-extended 16-bit immediate as a scalar token. -/
  | movi (imm : BitVec 16) (t0 : Target)
  /-- `MOVIH` (R219): Delivers A shifted left by 16 with the immediate in the low bits. -/
  | movih (imm : BitVec 16) (t0 : Target)
  /-- `MOV` (R219): Copies the token in slot A to its targets. -/
  | mov (t1 : Target) (t0 : Target) (p : Pred) (t : LaneType)
  /-- `MOV_F16` (R201): 16-bit form of MOV. -/
  | mov_F16 (t0 : Target) (st : ShortType)
  /-- `TEQ` (R220): Tests A = B element by element. -/
  | teq (t1 : Target) (t0 : Target) (p : Pred) (t : LaneType)
  /-- `TEQ_F16` (R201): 16-bit form of TEQ. -/
  | teq_F16 (t0 : Target) (st : ShortType)
  /-- `TNE` (R220): Tests A different from B element by element. -/
  | tne (t1 : Target) (t0 : Target) (p : Pred) (t : LaneType)
  /-- `TLT` (R220): Tests A < B element by element. -/
  | tlt (t1 : Target) (t0 : Target) (p : Pred) (t : LaneType)
  /-- `TLT_F16` (R201): 16-bit form of TLT. -/
  | tlt_F16 (t0 : Target) (st : ShortType)
  /-- `TLE` (R220): Tests A <= B element by element. -/
  | tle (t1 : Target) (t0 : Target) (p : Pred) (t : LaneType)
  /-- `SEL` (R221): Selects A or B by the selector in C. -/
  | sel (t1 : Target) (t0 : Target) (p : Pred) (t : LaneType)
  /-- `SEL_F16` (R201): 16-bit form of SEL. -/
  | sel_F16 (t0 : Target) (st : ShortType)
  /-- `PAND` (R222): Predicate AND of A and B. -/
  | pand (t1 : Target) (t0 : Target) (p : Pred)
  /-- `POR` (R222): Predicate OR of A and B. -/
  | por (t1 : Target) (t0 : Target) (p : Pred)
  /-- `PNOT` (R222): Predicate NOT of A. -/
  | pnot (t1 : Target) (t0 : Target) (p : Pred)
  /-- `ANYL` (R222): Scalar 1 if any non-null lane of A is nonzero. -/
  | anyl (t1 : Target) (t0 : Target) (p : Pred)
  /-- `ALLL` (R222): Scalar 1 if every non-null lane of A is nonzero. -/
  | alll (t1 : Target) (t0 : Target) (p : Pred)
  /-- `ADDS` (R223): 64-bit scalar add. -/
  | adds (x : XMode) (t1 : Target) (t0 : Target) (p : Pred) (t : LaneType)
  /-- `SUBS` (R223): 64-bit scalar subtract. -/
  | subs (x : XMode) (t1 : Target) (t0 : Target) (p : Pred) (t : LaneType)
  /-- `MULS` (R223): 64-bit scalar multiply. -/
  | muls (x : XMode) (t1 : Target) (t0 : Target) (p : Pred) (t : LaneType)
  /-- `MULHS` (R223): High 64 bits of the 128-bit scalar product. -/
  | mulhs (t1 : Target) (t0 : Target) (p : Pred) (t : LaneType)
  /-- `DIVS` (R223): 64-bit scalar division rounded toward zero. -/
  | divs (x : XMode) (t1 : Target) (t0 : Target) (p : Pred) (t : LaneType)
  /-- `REMS` (R223): 64-bit scalar remainder. -/
  | rems (t1 : Target) (t0 : Target) (p : Pred) (t : LaneType)
  /-- `ANDS` (R223): 64-bit scalar AND. -/
  | ands (t1 : Target) (t0 : Target) (p : Pred) (t : LaneType)
  /-- `ORS` (R223): 64-bit scalar OR. -/
  | ors (t1 : Target) (t0 : Target) (p : Pred) (t : LaneType)
  /-- `XORS` (R223): 64-bit scalar XOR. -/
  | xors (t1 : Target) (t0 : Target) (p : Pred) (t : LaneType)
  /-- `SHLS` (R223): 64-bit scalar shift left by B<5:0>. -/
  | shls (x : XMode) (t1 : Target) (t0 : Target) (p : Pred) (t : LaneType)
  /-- `SHRS` (R223): 64-bit scalar shift right by B<5:0>. -/
  | shrs (t1 : Target) (t0 : Target) (p : Pred) (t : LaneType)
  /-- `ADDIS` (R223): Scalar add of a signed 10-bit immediate, wrapping. -/
  | addis (imm : BitVec 10) (t0 : Target) (p : Pred) (t : LaneType)
  /-- `ANDIS` (R223): Scalar AND with a sign-extended immediate. -/
  | andis (imm : BitVec 10) (t0 : Target) (p : Pred) (t : LaneType)
  /-- `SHIS` (R223): Scalar shift by a signed immediate. -/
  | shis (imm : BitVec 10) (t0 : Target) (p : Pred) (t : LaneType)
  /-- `CLZS` (R224): Counts leading zero bits of A. -/
  | clzs (t1 : Target) (t0 : Target) (p : Pred)
  /-- `CTZS` (R224): Counts trailing zero bits of A. -/
  | ctzs (t1 : Target) (t0 : Target) (p : Pred)
  /-- `POPCS` (R224): Counts one bits of A. -/
  | popcs (t1 : Target) (t0 : Target) (p : Pred)
  /-- `MINS` (R224): Scalar minimum, signed or unsigned by T. -/
  | mins (t1 : Target) (t0 : Target) (p : Pred) (u : Bool)
  /-- `MAXS` (R224): Scalar maximum, signed or unsigned by T. -/
  | maxs (t1 : Target) (t0 : Target) (p : Pred) (u : Bool)
  /-- `VADD` (R232): Element-wise add. -/
  | vadd (x : XMode) (t1 : Target) (t0 : Target) (p : Pred) (t : LaneType)
  /-- `VADD_F16` (R201): 16-bit form of VADD. -/
  | vadd_F16 (t0 : Target) (st : ShortType)
  /-- `VSUB` (R232): Element-wise subtract. -/
  | vsub (x : XMode) (t1 : Target) (t0 : Target) (p : Pred) (t : LaneType)
  /-- `VSUB_F16` (R201): 16-bit form of VSUB. -/
  | vsub_F16 (t0 : Target) (st : ShortType)
  /-- `VMUL` (R232): Element-wise multiply. -/
  | vmul (x : XMode) (t1 : Target) (t0 : Target) (p : Pred) (t : LaneType)
  /-- `VMUL_F16` (R201): 16-bit form of VMUL. -/
  | vmul_F16 (t0 : Target) (st : ShortType)
  /-- `VMULH` (R232): High half of the element-wise integer product. -/
  | vmulh (t1 : Target) (t0 : Target) (p : Pred) (t : LaneType)
  /-- `VFMA` (R232): Element-wise fused multiply-add rounded once. -/
  | vfma (x : XMode) (t1 : Target) (t0 : Target) (p : Pred) (t : LaneType)
  /-- `VFMA_F16` (R201): 16-bit form of VFMA. -/
  | vfma_F16 (t0 : Target) (st : ShortType)
  /-- `VMIN` (R232): Element-wise minimum. -/
  | vmin (t1 : Target) (t0 : Target) (p : Pred) (t : LaneType)
  /-- `VMIN_F16` (R201): 16-bit form of VMIN. -/
  | vmin_F16 (t0 : Target) (st : ShortType)
  /-- `VMAX` (R232): Element-wise maximum. -/
  | vmax (t1 : Target) (t0 : Target) (p : Pred) (t : LaneType)
  /-- `VMAX_F16` (R201): 16-bit form of VMAX. -/
  | vmax_F16 (t0 : Target) (st : ShortType)
  /-- `VAND` (R235): AND of the lane words. -/
  | vand (t1 : Target) (t0 : Target) (p : Pred) (t : LaneType)
  /-- `VAND_F16` (R201): 16-bit form of VAND. -/
  | vand_F16 (t0 : Target) (st : ShortType)
  /-- `VOR` (R235): OR of the lane words. -/
  | vor (t1 : Target) (t0 : Target) (p : Pred) (t : LaneType)
  /-- `VOR_F16` (R201): 16-bit form of VOR. -/
  | vor_F16 (t0 : Target) (st : ShortType)
  /-- `VXOR` (R235): XOR of the lane words. -/
  | vxor (t1 : Target) (t0 : Target) (p : Pred) (t : LaneType)
  /-- `VXOR_F16` (R201): 16-bit form of VXOR. -/
  | vxor_F16 (t0 : Target) (st : ShortType)
  /-- `VSHL` (R235): Element-wise shift left. -/
  | vshl (x : XMode) (t1 : Target) (t0 : Target) (p : Pred) (t : LaneType)
  /-- `VSHL_F16` (R201): 16-bit form of VSHL. -/
  | vshl_F16 (t0 : Target) (st : ShortType)
  /-- `VSHR` (R235): Element-wise shift right. -/
  | vshr (t1 : Target) (t0 : Target) (p : Pred) (t : LaneType)
  /-- `VSHR_F16` (R201): 16-bit form of VSHR. -/
  | vshr_F16 (t0 : Target) (st : ShortType)
  /-- `VADDI` (R235): Element-wise add of a signed immediate, modulo the width. -/
  | vaddi (imm : BitVec 10) (t0 : Target) (p : Pred) (t : LaneType)
  /-- `VDOT` (R236): Per-lane dot product of packed elements plus C, rounded once. -/
  | vdot (x : XMode) (t1 : Target) (t0 : Target) (p : Pred) (t : LaneType)
  /-- `VDOT_F16` (R201): 16-bit form of VDOT. -/
  | vdot_F16 (t0 : Target) (st : ShortType)
  /-- `VDIV` (R237): FP32 division, correctly rounded. -/
  | vdiv (x : XMode) (t1 : Target) (t0 : Target) (p : Pred)
  /-- `VSQRT` (R237): FP32 square root, correctly rounded. -/
  | vsqrt (x : XMode) (t1 : Target) (t0 : Target) (p : Pred)
  /-- `VRCP` (R237): FP32 reciprocal within 1 ulp. -/
  | vrcp (t1 : Target) (t0 : Target) (p : Pred)
  /-- `VRSQ` (R237): FP32 reciprocal square root within 1 ulp. -/
  | vrsq (t1 : Target) (t0 : Target) (p : Pred)
  /-- `VEXP2` (R237): FP32 base-2 exponential within 2 ulp. -/
  | vexp2 (t1 : Target) (t0 : Target) (p : Pred)
  /-- `VLOG2` (R237): FP32 base-2 logarithm within 2 ulp. -/
  | vlog2 (t1 : Target) (t0 : Target) (p : Pred)
  /-- `VCVT` (R238): Converts each element from the source type in IMM10 to T. -/
  | vcvt (mode : BitVec 2) (src : LaneType) (t0 : Target) (p : Pred) (t : LaneType)
  /-- `VCVTS` (R240): Packs FP32 lanes into T through a scale, rounded once. -/
  | vcvts (x : XMode) (t1 : Target) (t0 : Target) (p : Pred) (t : LaneType)
  /-- `VPACK` (R239): Narrows 32-bit lanes into part q of a packed vector. -/
  | vpack (x : XMode) (t1 : Target) (t0 : Target) (p : Pred) (t : LaneType)
  /-- `VUNPK` (R239): Widens part q of a packed vector to 32-bit lanes. -/
  | vunpk (t1 : Target) (t0 : Target) (p : Pred) (t : LaneType)
  /-- `VRND` (R241): Rounds each element to an integral value in the mode in IMM10. -/
  | vrnd (imm : BitVec 10) (t0 : Target) (p : Pred) (t : LaneType)
  /-- `VRAND` (R242): Delivers counter-based random words per lane. -/
  | vrand (t1 : Target) (t0 : Target) (p : Pred) (t : LaneType)
  /-- `VBCE` (R243): Broadcasts element e of A to every element. -/
  | vbce (imm : BitVec 10) (t0 : Target) (p : Pred) (t : LaneType)
  /-- `VSHUF` (R244): Permutes elements of A by the indices in B. -/
  | vshuf (t1 : Target) (t0 : Target) (p : Pred) (t : LaneType)
  /-- `VRED` (R245): Reduces all elements of A to one scalar by a pairwise tree. -/
  | vred (imm : BitVec 10) (t0 : Target) (p : Pred) (t : LaneType)
  /-- `VSCAN` (R246): Forms inclusive prefixes of A in element order. -/
  | vscan (imm : BitVec 10) (t0 : Target) (p : Pred) (t : LaneType)
  /-- `VINS` (R247): Inserts a scalar into one element of A. -/
  | vins (t1 : Target) (t0 : Target) (p : Pred) (t : LaneType)
  /-- `VEXT` (R247): Extracts one element of A as a scalar. -/
  | vext (t1 : Target) (t0 : Target) (p : Pred) (t : LaneType)
  /-- `VCMPR` (R248): Compresses selected lanes of A, or counts them with T = 1. -/
  | vcmpr (t1 : Target) (t0 : Target) (p : Pred) (u : Bool)
  /-- `LDV` (R274): Loads a 128-byte vector from the local space. -/
  | ldv (lsid : BitVec 4) (imm : BitVec 6) (t0 : Target) (p : Pred)
  /-- `STV` (R274): Stores a 128-byte vector at commit. -/
  | stv (lsid : BitVec 4) (imm : BitVec 14) (p : Pred)
  /-- `LDS` (R274): Loads a scalar of 1 to 8 bytes. -/
  | lds (lsid : BitVec 4) (imm : BitVec 6) (t0 : Target) (p : Pred) (t : LaneType)
  /-- `STS` (R274): Stores a scalar of 1 to 8 bytes at commit. -/
  | sts (lsid : BitVec 4) (imm : BitVec 14) (p : Pred) (t : LaneType)
  /-- `LDGV` (R274): Gathers one element per lane from base plus lane offsets. -/
  | ldgv (lsid : BitVec 4) (imm : BitVec 6) (t0 : Target) (p : Pred) (t : LaneType)
  /-- `STSV` (R274): Scatters one element per lane at commit. -/
  | stsv (lsid : BitVec 4) (imm : BitVec 14) (p : Pred) (t : LaneType)
  /-- `LDVS` (R274): Strided vector load. -/
  | ldvs (lsid : BitVec 4) (imm : BitVec 6) (t0 : Target) (p : Pred) (t : LaneType)
  /-- `STVS` (R274): Strided vector store at commit. -/
  | stvs (lsid : BitVec 4) (imm : BitVec 14) (p : Pred) (t : LaneType)
  /-- `AOP` (R277): Atomic read-modify-write with the function in IMM6, delivering the old value. -/
  | aop (lsid : BitVec 4) (fn : BitVec 6) (t0 : Target) (p : Pred) (t : LaneType)
  /-- `ACAS` (R277): Atomic compare-and-swap. -/
  | acas (lsid : BitVec 4) (t0 : Target) (p : Pred) (t : LaneType)
  /-- `BINIT` (R282): Arms a barrier object at commit. -/
  | binit (lsid : BitVec 4) (sstep : Bool) (p : Pred)
  /-- `BARV` (R283): Adds one arrival to a barrier object. -/
  | barv (lsid : BitVec 4) (p : Pred)
  /-- `BEXP` (R283): Adds expected bytes to a barrier object, optionally with an arrival. -/
  | bexp (lsid : BitVec 4) (arr : Bool) (p : Pred)
  /-- `BPH` (R284): Reads the phase state of a local barrier object. -/
  | bph (lsid : BitVec 4) (t0 : Target) (p : Pred)
  /-- `DRAIN` (R285): Waits for the outstanding count to reach 0, then arrives at a barrier object. -/
  | drain (lsid : BitVec 4) (p : Pred)
  /-- `EVSIG` (R288): Signals an event line with the operation in IMM14<1:0>. -/
  | evsig (lsid : BitVec 4) (evop : BitVec 2) (p : Pred)
  /-- `HGET` (R291): Halyard copy from global memory into local SRAM or the instruction store. -/
  | hget (lsid : BitVec 4) (dl : Bool) (rsc : BitVec 3) (asc : BitVec 3) (rel : Bool) (acq : Bool) (p : Pred)
  /-- `HSND` (R291): Halyard send from local SRAM to global memory, a peer core or a group. -/
  | hsnd (lsid : BitVec 4) (dl : Bool) (rsc : BitVec 3) (asc : BitVec 3) (rel : Bool) (acq : Bool) (p : Pred)
  /-- `HGATH` (R291): Halyard gather of listed global elements into local SRAM. -/
  | hgath (lsid : BitVec 4) (dl : Bool) (rsc : BitVec 3) (asc : BitVec 3) (rel : Bool) (acq : Bool) (p : Pred) (t : LaneType)
  /-- `HSCAT` (R291): Halyard scatter of local elements to listed global addresses. -/
  | hscat (lsid : BitVec 4) (dl : Bool) (rsc : BitVec 3) (asc : BitVec 3) (rel : Bool) (acq : Bool) (p : Pred) (t : LaneType)
  /-- `HSADD` (R292): Halyard element-wise add into a core's local SRAM. -/
  | hsadd (lsid : BitVec 4) (dl : Bool) (rsc : BitVec 3) (asc : BitVec 3) (rel : Bool) (acq : Bool) (p : Pred) (t : LaneType)
  /-- `HPFCH` (R291): Halyard prefetch of G-page lines into the cluster get-cache. -/
  | hpfch (lsid : BitVec 4) (dl : Bool) (p : Pred)
  /-- `QPUSH` (R290): Pushes a 128-byte entry into a stage queue. -/
  | qpush (lsid : BitVec 4) (t0 : Target) (p : Pred)
  /-- `QPOP` (R290): Pops a 128-byte entry from a stage queue. -/
  | qpop (lsid : BitVec 4) (t0 : Target) (p : Pred)
  /-- `QSTOP` (R290): Pushes a stop token into a stage queue. -/
  | qstop (lsid : BitVec 4) (t0 : Target) (p : Pred)
  /-- `TIDSET` (R252): Writes a tensor identifier entry from a 32-byte image at commit. -/
  | tidset (lsid : BitVec 4) (entry : BitVec 6) (p : Pred)
  /-- `MXMUL` (R262): Dispatches an outer-product accumulation command to an OPA. -/
  | mxmul (lsid : BitVec 4) (ovr : Bool) (p : Pred)
  /-- `MXDRN` (R264): Dispatches a drain of tile rows to local SRAM with conversion. -/
  | mxdrn (lsid : BitVec 4) (sat : Bool) (p : Pred)
  /-- `MXZ` (R263): Dispatches a zeroing of an accumulator tile. -/
  | mxz (lsid : BitVec 4) (p : Pred)
  /-- `PLPIN` (R266): Dispatches a pin that makes a tile a plate. -/
  | plpin (lsid : BitVec 4) (p : Pred)
  /-- `PLUNP` (R266): Dispatches an unpin that frees and clears a plate. -/
  | plunp (lsid : BitVec 4) (p : Pred)
  /-- `PLDLT` (R267): Dispatches a gated delta-rule update of a plate. -/
  | pldlt (lsid : BitVec 4) (p : Pred)
  /-- `PLRD` (R268): Dispatches a plate readout o = S q. -/
  | plrd (lsid : BitVec 4) (p : Pred)
  /-- `PLSPL` (R269): Dispatches a spill of a tile in the spill format. -/
  | plspl (lsid : BitVec 4) (scope : BitVec 3) (sync : Bool) (mem : Bool) (lossy : Bool) (p : Pred)
  /-- `PLFIL` (R269): Dispatches a fill of a tile from a spill. -/
  | plfil (lsid : BitVec 4) (scope : BitVec 3) (sync : Bool) (mem : Bool) (p : Pred)
  /-- `VDECL` (R296): Declares a shared tile in one of the row's view slots. -/
  | vdecl (lsid : BitVec 4) (slot : BitVec 2) (p : Pred)
  /-- `FORK` (R297): Searches for an idle row and starts one task at commit. -/
  | fork (lsid : BitVec 4) (wait : Bool) (p : Pred)
  /-- `FENCE` (R294): Holds later accesses of the row until earlier ones are performed in the scope. -/
  | fence (lsid : BitVec 4) (scope : BitVec 3) (p : Pred)
  /-- `CTLRD` (R301): Reads a control register at fire. -/
  | ctlrd (lsid : BitVec 4) (t0 : Target) (p : Pred)
  /-- `CTLWR` (R301): Writes a control register at commit. -/
  | ctlwr (lsid : BitVec 4) (p : Pred)
  /-- `SYSC` (R302): Reserves and posts a system-call record to host memory. -/
  | sysc (lsid : BitVec 4) (imm : BitVec 6) (t0 : Target) (p : Pred)
  /-- `ACTIVATION` (R97): The activation scheduler opens a ready row into a free slot. -/
  | activation (core : Nat) (bank : Nat)
  /-- `HEADER_READ` (R69): A sub-array serves a header read, or replays it and counts a conflict. -/
  | headerRead (core : Nat) (bank : Nat) (sub : Nat)
  /-- `BLOCK_COMMIT` (R71): An instance meeting its commit conditions performs its writes, stores and dispatches as one event. -/
  | blockCommit (core : Nat) (rid : Nat)
  /-- `ROW_CLOSE_COMPLETE` (R65): A row's two closing cycles end and its slot becomes free, performing stores held during closing. -/
  | rowCloseComplete (core : Nat) (rid : Nat)
  /-- `QUANTUM_END` (R99): The 64th boundary of a row's quantum closes it for rotation or restarts the count. -/
  | quantumEnd (core : Nat) (rid : Nat)
  /-- `ROW_AGED` (R100): A row ready for 2,048 cycles becomes aged and marks an open row for rotation. -/
  | rowAged (core : Nat) (rid : Nat)
  /-- `BLOCK_STALL` (R193): An instance that can make no progress meets the BlockStall check. -/
  | blockStall (core : Nat) (rid : Nat)
  /-- `FORCED_CLOSE` (R353): A row is closed by force, discarding its instance and performing held stores and requests. -/
  | forcedClose (core : Nat) (rid : Nat)
  /-- `PRECISE_TRAP` (R340): A trap boundary writes TRAPSAVE and ERRWORD and moves the row to its handler or to trapped. -/
  | preciseTrap (core : Nat) (rid : Nat)
  /-- `ASYNC_CONDITION` (R344): An asynchronous condition arrives with an acknowledgement and is recorded in ERRWORD. -/
  | asyncCondition (k : Nat)
  /-- `ACKNOWLEDGEMENT` (R143): An acknowledgement returns to the dispatching row and lowers its outstanding count. -/
  | acknowledgement (k : Nat)
  /-- `WAIT_WAKE` (R209): A waiting row becomes ready in the cycle after its wait condition first holds. -/
  | waitWake (core : Nat) (rid : Nat)
  /-- `REMOTE_STORE_ARRIVAL` (R74): A remote or control-field store arrives at a core and is performed or held. -/
  | remoteStoreArrival (k : Nat)
  /-- `REMOTE_ATOMIC_ARRIVAL` (R279): A remote atomic arrives at the target bank unit and is performed or held. -/
  | remoteAtomicArrival (k : Nat)
  /-- `RUNREQ` (R62): A store setting RUNREQ makes an idle or stopped row run. -/
  | runreq (core : Nat) (rid : Nat)
  /-- `STOPREQ` (R62): A store setting STOPREQ stops the row at once or at its next boundary. -/
  | stopreq (core : Nat) (rid : Nat)
  /-- `REDIR` (R63): A store setting REDIR replaces PC by NEXTPC at once or at the next boundary. -/
  | redir (core : Nat) (rid : Nat)
  /-- `QNOTIFY` (R79): A function posts records by writing a new tail, mapping the queue to a slot if needed. -/
  | qnotify (f : Nat) (qid : Nat) (tail : Nat)
  /-- `QUEUE_MAP_PENDING` (R80): A queue with its QPEND bit set is mapped when a slot frees. -/
  | queueMapPending
  /-- `QCANCEL` (R93): A function cancels a record as far as it has gone. -/
  | qcancel (f : Nat) (qid : Nat) (index : Nat)
  /-- `SELECTION_ROUND` (R86): Every 32 cycles Capstan selects the eligible head of highest class and tries to place it. -/
  | selectionRound
  /-- `GANG_DISPATCH` (R92): Capstan sends GO and every row of the gang becomes ready or idle in one cycle. -/
  | gangDispatch
  /-- `GRELEASE` (R96): The release write lets a gang whose rows have all stopped end. -/
  | grelease (f : Nat) (gang : Nat)
  /-- `GANG_END` (R96): A gang ends once nothing it dispatched is in flight, releasing its resources. -/
  | gangEnd (gang : Nat)
  /-- `TSTOP_STOP` (R103): The physical function requests a tenant stop, and Mainstay announces a stop time. -/
  | tstopStop (f : Nat)
  /-- `TSTOP_RESUME` (R107): The physical function requests a resume, and Mainstay announces a resume time. -/
  | tstopResume (f : Nat)
  /-- `STOP_CYCLE` (R103): At time T each core stops opening rows and brings its engines to their stop points. -/
  | stopCycle (core : Nat)
  /-- `STOP_DEADLINE` (R104): At T + 8,192 ns rows not yet at a boundary are closed by force. -/
  | stopDeadline (core : Nat)
  /-- `CORE_QUIESCENT` (R104): A quiet core reports to Mainstay, which sends the flush token when all have reported. -/
  | coreQuiescent (core : Nat)
  /-- `CONTEXT_SAVE` (R105): Each core writes its state to the context area after the flush. -/
  | contextSave (core : Nat)
  /-- `STOP_ABANDON` (R356): A stop not quiescent by T + 1 ms is abandoned and the context resumed without save. -/
  | stopAbandon
  /-- `RESUME_TIME` (R107): At T′ the restored context's rows, Halyard commands and OPA commands continue. -/
  | resumeTime
  /-- `CHUNK_START` (R123): A Halyard command's next 64 KiB chunk starts when a flight slot is free. -/
  | chunkStart (core : Nat) (entry : Nat)
  /-- `CHUNK_COMPLETE` (R124): A chunk completes, its bytes are counted into barriers and its progress pointer advances. -/
  | chunkComplete (core : Nat) (entry : Nat)
  /-- `WALK_START` (R311): A TLB miss starts a table walk when a walker is free. -/
  | walkStart (k : Nat)
  /-- `WALK_COMPLETE` (R308): A walk ends with a translation, a translation fault or V = 0. -/
  | walkComplete (k : Nat)
  /-- `PAGE_REQUEST_RECORD` (R313): A walk ending at V = 0 writes a page request record once ring room and a tag allow. -/
  | pageRequestRecord (k : Nat)
  /-- `PRRESP` (R313): Software answers a page request tag, releasing or faulting its waiting accesses. -/
  | prresp (f : Nat) (tag : Nat) (status : Nat)
  /-- `TLBINV` (R312): Removes cached translations of a function for a VA or all VAs. -/
  | tlbinv (all : Bool) (f : Nat) (va : Nat)
  /-- `TLBINV_DONE` (R312): BUSY falls once no TLB holds the translations and affected chunks have completed. -/
  | tlbinvDone
  /-- `HBM_ADMIT` (R131): A request leaves a tenant admission queue for an HBM bank queue. -/
  | hbmAdmit (k : Nat)
  /-- `HBM_SERVE` (R132): An HBM bank serves its next request. -/
  | hbmServe (k : Nat)
  /-- `DEADLINE_URGENT` (R130): A deadline request becomes urgent when the time base reaches D − 4. -/
  | deadlineUrgent (k : Nat)
  /-- `REFMARK_NOT_LIVE` (R133): Marks HBM regions not live so their refresh is elided. -/
  | refmarkNotLive (region : Nat) (count : Nat)
  /-- `REFMARK_LIVE` (R134): Marks HBM regions live and zero-fills those that were not. -/
  | refmarkLive (region : Nat) (count : Nat)
  /-- `ZERO_FILL_COMPLETE` (R134): The zero fill of a region ends and waiting accesses proceed. -/
  | zeroFillComplete (region : Nat)
  /-- `PATROL_SCRUB` (R371): Every 24 hours the base die reads live regions, correcting and poisoning. -/
  | patrolScrub (stack : Nat)
  /-- `NEIGHBOUR_REFRESH` (R378): 4,096 activations of an HBM bank row refresh its neighbours. -/
  | neighbourRefresh (stack : Nat) (bank : Nat) (row : Nat)
  /-- `HBM_ROW_REMAP` (R390): An HBM bank row past its error threshold is copied to a spare in service. -/
  | hbmRowRemap (stack : Nat) (bank : Nat) (row : Nat)
  /-- `LEASE_REVOKE` (R137): Setting LSTATE to 2 starts a lease revocation. -/
  | leaseRevoke (i : Nat)
  /-- `LEASE_DEADLINE` (R384): At DEADL with nothing outstanding a revoking lease becomes revoked. -/
  | leaseDeadline (i : Nat)
  /-- `EXPORT_DEADLINE` (R385): At DEADL a revoking export becomes revoked and refuses later requests. -/
  | exportDeadline (i : Nat)
  /-- `FABRIC_INGRESS` (R324): A fabric packet arrives and is checked against PTAGMAP and the export table. -/
  | fabricIngress (k : Nat)
  /-- `FABRIC_TIMEOUT` (R386): A fabric request without a response in 1 ms raises condition 0x0803. -/
  | fabricTimeout (k : Nat)
  /-- `FLIT_REPLAY` (R387): A flit failing CRC is replayed by link-level retry. -/
  | flitReplay (port : Nat)
  /-- `PORT_RETRAIN` (R387): After 16 consecutive replays a port retrains in service. -/
  | portRetrain (port : Nat) (trained : Bool)
  /-- `HOST_READ_COMPLETION` (R383): A Halyard read of host memory completes, possibly with an error status or poison. -/
  | hostReadCompletion (k : Nat) (status : Nat)
  /-- `HOST_READ_TIMEOUT` (R383): A host read without completion in 50 ms raises condition 0x0803. -/
  | hostReadTimeout (k : Nat)
  /-- `BARRIER_ARRIVAL` (R281): An arrival or byte count reaches a barrier object's bank unit and is evaluated. -/
  | barrierArrival (k : Nat)
  /-- `FLIP_BROADCAST` (R281): A flip broadcast reaches a core, which flips its children of the object. -/
  | flipBroadcast (k : Nat)
  /-- `STEP_START_NOTICE` (R366): The step-start notice releases messages held since a row's superstep arrival. -/
  | stepStartNotice (gang : Nat)
  /-- `DRAIN_ARRIVAL_SEND` (R285): A DRAIN arrival is sent once lower-LSID accesses of its commit are acknowledged. -/
  | drainArrivalSend (k : Nat)
  /-- `SUPERSTEP_ARRIVAL_SEND` (R283): A held superstep arrival is applied or sent once earlier accesses are acknowledged. -/
  | superstepArrivalSend (k : Nat)
  /-- `EVENT_SIGNAL` (R287): A signal reaches an event line and acts on it as its kind gives. -/
  | eventSignal (k : Nat)
  /-- `EVENT_WINDOW_STORE` (R286): A store to an event line's word 0x00 or 0x0C reconfigures and resets the line. -/
  | eventWindowStore (k : Nat)
  /-- `QUEUE_OP_PERFORM` (R290): A waiting QPUSH, QPOP or QSTOP is performed at the descriptor's bank unit. -/
  | queueOpPerform (core : Nat) (rid : Nat) (index : Nat)
  /-- `OPA_COMMAND_ACCEPT` (R256): The OPA arbiter accepts or rejects an arriving command or window store. -/
  | opaCommandAccept (k : Nat)
  /-- `OPA_COMMAND_START` (R260): A command starts on its tile when earlier commands allow. -/
  | opaCommandStart (core : Nat) (seq : Nat)
  /-- `OPA_GROUP_FINAL` (R260): A tile row group becomes final and the watermark rises. -/
  | opaGroupFinal (core : Nat) (seq : Nat)
  /-- `OPA_COMMAND_COMPLETE` (R260): A command completes and SEQ and QCNT change. -/
  | opaCommandComplete (core : Nat) (seq : Nat)
  /-- `DRAIN_GROUP_WRITE` (R261): A drain group's bytes are performed and counted into its barrier. -/
  | drainGroupWrite (core : Nat) (seq : Nat)
  /-- `WINDOW_STORE_PERFORM` (R111): An accumulator window store is performed once earlier tile commands complete. -/
  | windowStorePerform (core : Nat) (seq : Nat)
  /-- `WINDOW_LOAD_SERVE` (R111): An accumulator window load is served once the watermark exceeds its tile row. -/
  | windowLoadServe (core : Nat) (rid : Nat) (index : Nat)
  /-- `FORK_CLAIM` (R216): A fork search's claim arrives at a core and claims an idle row. -/
  | forkClaim (core : Nat) (rid : Nat)
  /-- `FORK_SEARCH_COMPLETE` (R216): A FORK or FORKR search ends with the rows it has claimed. -/
  | forkSearchComplete (core : Nat) (rid : Nat) (index : Nat)
  /-- `TASK_START` (R216): A start message makes a claimed row a ready task row. -/
  | taskStart (k : Nat)
  /-- `CLAIM_RELEASE` (R216): A release message returns a claimed row to idle and performs its held accesses. -/
  | claimRelease (k : Nat)
  /-- `MERGE_STEP` (R333): The merge unit performs one TestAndSet and merge of a splice chain. -/
  | mergeStep (k : Nat)
  /-- `PAIR_MISMATCH` (R364): Differing hashes of paired messages stop or roll back the gang. -/
  | pairMismatch (k : Nat)
  /-- `PAIR_TIMEOUT` (R364): A paired message waiting 65,536 cycles for its partner is a mismatch. -/
  | pairTimeout (k : Nat)
  /-- `ROLLBACK` (R367): The barrier core orders a superstep rollback restoring the step's log. -/
  | rollback (gang : Nat)
  /-- `SCDONE` (R305): Completes a system-call record by storing the reply and making its arrival. -/
  | scdone (f : Nat) (index : Nat)
  /-- `CAPMINT` (R306): The physical function mints a capability with any mask and rights. -/
  | capmint (v : Nat)
  /-- `KEY_GENERATE` (R316): Generates a new random key in a free key slot. -/
  | keyGenerate (owner : Nat) (slot : Nat)
  /-- `KEY_DESTROY` (R316): Marks a live key slot destroyed. -/
  | keyDestroy (slot : Nat)
  /-- `KEY_ERASE` (R316): A destroyed slot's key is erased once no access using it remains in flight. -/
  | keyErase (slot : Nat)
  /-- `PARTTAB_WRITE` (R306): A partition table write is performed only when it keeps the buddy and live-gang rules. -/
  | parttabWrite (node : Nat) (v : Nat)
  /-- `QUARANTINE` (R393): Quarantines an HBM stack, re-homing its live regions in the LPDDR node. -/
  | quarantine (stack : Nat)
  /-- `QUARANTINE_COMPLETE` (R393): The quarantine copy ends and a record of kind 11 is written. -/
  | quarantineComplete
  /-- `REPAIR_COMMIT` (R390): Commits pending repair candidates to the repair record. -/
  | repairCommit
  /-- `REPAIR_DISCARD` (R390): Discards pending repair candidates. -/
  | repairDiscard
  /-- `CORE_DISABLE` (R391): A core without spares is disabled and its gangs are stopped. -/
  | coreDisable (core : Nat)
  /-- `MODULE_RESET` (R325): Module reset runs start-up from the boot bundle through host link training. -/
  | moduleReset
  /-- `BOOTCTL` (R325): Selects the staged bundle for the next module reset. -/
  | bootctl (v : Nat)
  /-- `D3HOT_ENTRY` (R326): D3hot stops and saves every live context, then lowers the link. -/
  | d3hotEntry
  /-- `D0_ENTRY` (R326): D0 restores registers without resuming any context. -/
  | d0Entry
  /-- `LPDDR_SERVE` (R135): An LPDDR node controller serves its next request in age order. -/
  | lpddrServe (k : Nat)
  /-- `ARITHMETIC_CLOCK_STEP` (R326): The device lowers or raises the arithmetic clock in 75 MHz steps to keep module power at or below the cap. -/
  | arithmeticClockStep (raise : Bool)
  /-- `HOST_LINK_TRAINING` (R304): The PCIe host link trains or retrains, possibly at a degraded width or lower rate. -/
  | hostLinkTraining (width : Nat) (rate : Nat)
  /-- `REMAP_COPY_COMPLETE` (R390): The in-service copy of a failing HBM bank row to its spare ends and the accesses waiting on that row proceed. -/
  | remapCopyComplete (stack : Nat) (bank : Nat) (row : Nat)
  /-- `LOCK_INTERFACE` (R319): Locks a TDI's configuration entries. -/
  | lockInterface (f : Nat)
  /-- `START_INTERFACE` (R319): Moves a locked TDI to RUN so its gangs may bind. -/
  | startInterface (f : Nat)
  /-- `STOP_INTERFACE` (R319): Stops a TDI's rows, unpins its plates, destroys its keys and unlocks it. -/
  | stopInterface (f : Nat)
  /-- `GET_DEVICE_INTERFACE_REPORT` (R319): Returns the TDI's interface report. -/
  | getDeviceInterfaceReport (f : Nat)
  /-- `GET_DEVICE_INTERFACE_STATE` (R319): Returns the TDI's TDISP state. -/
  | getDeviceInterfaceState (f : Nat)
  /-- `TDI_ERROR` (R399): An integrity failure, FLR, locked-entry error or session end moves a TDI to ERROR. -/
  | tdiError (f : Nat)
  /-- `GET_VERSION` (R317): SPDM version request to a responder. -/
  | getVersion (die : Nat)
  /-- `GET_CAPABILITIES` (R317): SPDM capabilities request. -/
  | getCapabilities (die : Nat)
  /-- `NEGOTIATE_ALGORITHMS` (R317): SPDM algorithm negotiation. -/
  | negotiateAlgorithms (die : Nat) (offer : Nat)
  /-- `GET_DIGESTS` (R317): SPDM certificate digest request. -/
  | getDigests (die : Nat)
  /-- `GET_CERTIFICATE` (R317): SPDM certificate chain request. -/
  | getCertificate (die : Nat) (slot : Nat) (offset : Nat) (len : Nat)
  /-- `CHALLENGE` (R317): SPDM challenge signed by the die's own key. -/
  | challenge (die : Nat) (nonce : Nat)
  /-- `GET_MEASUREMENTS` (R318): SPDM signed measurement request. -/
  | getMeasurements (die : Nat) (index : Nat) (nonce : Nat)
  /-- `KEY_EXCHANGE` (R317): SPDM session key exchange. -/
  | keyExchange (die : Nat)
  /-- `FINISH` (R317): SPDM session finish. -/
  | finish (die : Nat) (tagOk : Bool)
  /-- `HEARTBEAT` (R317): SPDM session heartbeat. -/
  | heartbeat (die : Nat) (tagOk : Bool)
  /-- `KEY_UPDATE` (R400): SPDM session key update; a failure ends the session. -/
  | keyUpdate (die : Nat) (ok : Bool)
  /-- `END_SESSION` (R400): Ends an SPDM session. -/
  | endSession (die : Nat)
  /-- `HEARTBEAT_TIMEOUT` (R400): Three heartbeat periods without a message end the session. -/
  | heartbeatTimeout (die : Nat)
  /-- `RELAY_TIMEOUT` (R400): A relayed request unanswered in 100 ms is answered with an SPDM error. -/
  | relayTimeout (die : Nat)
  /-- `IDE_KM` (R320): Sets IDE stream keys in an SPDM session. -/
  | ideKm (stream : Nat) (key : Nat)
  /-- `REGISTER_WRITE` (R8): A write to a register without behaviour of its own follows its access codes. -/
  | registerWrite (f : Nat) (off : Nat) (width : Nat) (v : Nat)
  deriving DecidableEq, Repr

end Sys2Proof
end

