-- ==== Sys2Proof/WellFormed.lean ====
section
/-!
DEFINITION. Which instructions are well formed: field values the instruction accepts (R203, R223, R224, R228, R231, R238 to
R248, R252, R253, R273, R277, R291, R294), and steps whose operands name existing parts of the machine.
Which targets are valid depends on the block (R186) and is checked by `DecodeBlock` (R187), not here.
-/

namespace Sys2Proof

/-- The code of a P value (R197). -/
def Pred.code : Pred → Nat
  | .always => 0 | .onTrue => 1 | .onFalse => 2

/-- The P value of a code; 3 is reserved (R197). -/
def Pred.ofCode? : Nat → Option Pred
  | 0 => some .always | 1 => some .onTrue | 2 => some .onFalse | _ => none

/-- The code of an X value (R198). -/
def XMode.code : XMode → Nat
  | .row => 0 | .rne => 1 | .rtz => 2 | .srne => 3

/-- The X value of a code (R198). -/
def XMode.ofCode? : Nat → Option XMode
  | 0 => some .row | 1 => some .rne | 2 => some .rtz | 3 => some .srne | _ => none

namespace LaneType

/-- The T code (R199). -/
def code : LaneType → Nat
  | i32 => 0 | n32 => 1 | i16x2 => 2 | n16x2 => 3 | i8x4 => 4 | n8x4 => 5 | fp32 => 6 | bf16x2 => 7
  | fp16x2 => 8 | e4m3x4 => 9 | e5m2x4 => 10 | e2m1x8 => 11 | dm8x4 => 12 | i64 => 13 | n64 => 14

/-- The type of a T code; 15 is reserved (R199). -/
def ofCode? : Nat → Option LaneType
  | 0 => some i32 | 1 => some n32 | 2 => some i16x2 | 3 => some n16x2 | 4 => some i8x4 | 5 => some n8x4
  | 6 => some fp32 | 7 => some bf16x2 | 8 => some fp16x2 | 9 => some e4m3x4 | 10 => some e5m2x4
  | 11 => some e2m1x8 | 12 => some dm8x4 | 13 => some i64 | 14 => some n64 | _ => none

/-- T 0 to 5: an integer lane type (R228). -/
def isInt (t : LaneType) : Bool := t.code < 6

/-- T 6 to 12: a floating-point lane type (R228). -/
def isFloat (t : LaneType) : Bool := 6 ≤ t.code && t.code < 13

/-- T 0 to 12: a lane type of vector instructions (R228). -/
def isLane (t : LaneType) : Bool := t.code < 13

/-- T 13 and 14: scalar forms only (R199). -/
def isScalar (t : LaneType) : Bool := 13 ≤ t.code

/-- T 2 to 5 and 7 to 12: several elements in a lane (R163, R228). -/
def isPacked (t : LaneType) : Bool := t.isLane && t != .i32 && t != .n32 && t != .fp32

/-- Elements per lane, P (R163). -/
def elems : LaneType → Nat
  | i32 | n32 | fp32 | i64 | n64 => 1
  | i16x2 | n16x2 | bf16x2 | fp16x2 => 2
  | i8x4 | n8x4 | e4m3x4 | e5m2x4 | dm8x4 => 4
  | e2m1x8 => 8

/-- Element width in bits (R163). -/
def width : LaneType → Nat
  | i32 | n32 | fp32 => 32
  | i64 | n64 => 64
  | i16x2 | n16x2 | bf16x2 | fp16x2 => 16
  | i8x4 | n8x4 | e4m3x4 | e5m2x4 | dm8x4 => 8
  | e2m1x8 => 4

/-- The I types (R158). -/
def isSigned : LaneType → Bool
  | i32 | i16x2 | i8x4 | i64 => true
  | _ => false

/-- Integer operations accept X 0 and 1, floating-point operations every X (R198, R228). -/
def acceptsX (t : LaneType) (x : XMode) : Bool := t.isFloat || x.code < 2

/-- VCVT converts between different types of one element width class; E2M1x8 is not among them (R238). -/
def sameWidthClass (t s : LaneType) : Bool :=
  t != s && t.width == s.width && t.isLane && s.isLane && t != .e2m1x8

/-- The functions of AOP that a type accepts (R277). -/
def aopAccepts (t : LaneType) (fn : Nat) : Bool :=
  match t with
  | i32 | n32 | i64 | n64 => fn ≤ 6
  | fp32 => fn == 4 || fn == 5 || fn == 6 || fn == 8
  | _ => false

end LaneType

/-- Field values that the instruction accepts (R203). -/
def Instr.wf : Instr → Bool
  | .br _ _ => true
  | .brx _ => true
  | .call _ _ => true
  | .loop _ _ => true
  | .endl _ => true
  | .brkl _ _ => true
  | .waitb _ _ => true
  | .waite _ _ => true
  | .waitqr _ _ => true
  | .waitqd _ _ => true
  | .yield _ _ => true
  | .halt _ _ => true
  | .trap _ _ => true
  | .efence _ _ => true
  | .splice _ => true
  | .forkr _ _ => true
  | .movi _ _ => true
  | .movih _ _ => true
  | .mov _ _ _ _ => true
  | .mov_F16 _ _ => true
  | .teq _ _ _ _ => true
  | .teq_F16 _ _ => true
  | .tne _ _ _ _ => true
  | .tlt _ _ _ _ => true
  | .tlt_F16 _ _ => true
  | .tle _ _ _ _ => true
  | .sel _ _ _ _ => true
  | .sel_F16 _ _ => true
  | .pand _ _ _ => true
  | .por _ _ _ => true
  | .pnot _ _ _ => true
  | .anyl _ _ _ => true
  | .alll _ _ _ => true
  | .adds x _ _ _ t => t.isScalar && t.acceptsX x
  | .subs x _ _ _ t => t.isScalar && t.acceptsX x
  | .muls x _ _ _ t => t.isScalar && t.acceptsX x
  | .mulhs _ _ _ t => t.isScalar
  | .divs x _ _ _ t => t.isScalar && t.acceptsX x
  | .rems _ _ _ t => t.isScalar
  | .ands _ _ _ t => t.isScalar
  | .ors _ _ _ t => t.isScalar
  | .xors _ _ _ t => t.isScalar
  | .shls x _ _ _ t => t.isScalar && t.acceptsX x
  | .shrs _ _ _ t => t.isScalar
  | .addis _ _ _ t => t.isScalar
  | .andis _ _ _ t => t.isScalar
  | .shis imm _ _ t => t.isScalar && decide (-63 ≤ imm.toInt) && decide (imm.toInt ≤ 63)
  | .clzs _ _ _ => true
  | .ctzs _ _ _ => true
  | .popcs _ _ _ => true
  | .mins _ _ _ _ => true
  | .maxs _ _ _ _ => true
  | .vadd x _ _ _ t => t.isLane && t.acceptsX x
  | .vadd_F16 _ _ => true
  | .vsub x _ _ _ t => t.isLane && t.acceptsX x
  | .vsub_F16 _ _ => true
  | .vmul x _ _ _ t => t.isLane && t.acceptsX x
  | .vmul_F16 _ _ => true
  | .vmulh _ _ _ t => t.isInt
  | .vfma x _ _ _ t => t.isLane && t.acceptsX x
  | .vfma_F16 _ _ => true
  | .vmin _ _ _ t => t.isLane
  | .vmin_F16 _ _ => true
  | .vmax _ _ _ t => t.isLane
  | .vmax_F16 _ _ => true
  | .vand _ _ _ t => t.isLane
  | .vand_F16 _ _ => true
  | .vor _ _ _ t => t.isLane
  | .vor_F16 _ _ => true
  | .vxor _ _ _ t => t.isLane
  | .vxor_F16 _ _ => true
  | .vshl x _ _ _ t => t.isInt && t.acceptsX x
  | .vshl_F16 _ st => st.lane.isInt
  | .vshr _ _ _ t => t.isInt
  | .vshr_F16 _ st => st.lane.isInt
  | .vaddi _ _ _ t => t.isInt
  | .vdot x _ _ _ t => t.isPacked && t.acceptsX x
  | .vdot_F16 _ st => st.lane.isPacked
  | .vdiv _ _ _ _ => true
  | .vsqrt _ _ _ _ => true
  | .vrcp _ _ _ => true
  | .vrsq _ _ _ => true
  | .vexp2 _ _ _ => true
  | .vlog2 _ _ _ => true
  | .vcvt mode src _ _ t => t.sameWidthClass src && (!(t.isInt && src.isInt) || decide (mode.toNat < 2))
  | .vcvts _ _ _ _ t => t.isLane
  | .vpack x _ _ _ t => t.isPacked && t.acceptsX x
  | .vunpk _ _ _ t => t.isPacked
  | .vrnd imm _ _ t => t.isFloat && t != .dm8x4 && decide (imm.toNat ≤ 4)
  | .vrand _ _ _ t => t == .n32 || t == .fp32 || t == .bf16x2
  | .vbce imm _ _ t => t.isLane && decide (imm.toNat < 32 * t.elems)
  | .vshuf _ _ _ t => t.isLane && t != .e2m1x8
  | .vred imm _ _ t => t.isLane && decide (imm.toNat ≤ 5)
  | .vscan imm _ _ t => t.isLane && decide (imm.toNat ≤ 2)
  | .vins _ _ _ t => t.isLane
  | .vext _ _ _ t => t.isLane
  | .vcmpr _ _ _ _ => true
  | .ldv _ _ _ _ => true
  | .stv _ _ _ => true
  | .lds _ _ _ _ t => t.isInt || t.isScalar
  | .sts _ _ _ t => t.isInt || t.isScalar
  | .ldgv _ _ _ _ t => t.isInt || t == .fp32
  | .stsv _ _ _ t => t.isInt || t == .fp32
  | .ldvs _ _ _ _ t => t.isInt || t == .fp32
  | .stvs _ _ _ t => t.isInt || t == .fp32
  | .aop _ fn _ _ t => t.aopAccepts fn.toNat
  | .acas _ _ _ t => t == .i32 || t == .n32 || t.isScalar
  | .binit _ _ _ => true
  | .barv _ _ => true
  | .bexp _ _ _ => true
  | .bph _ _ _ => true
  | .drain _ _ => true
  | .evsig _ evop _ => decide (evop.toNat < 3)
  | .hget _ _ rsc asc _ _ _ => decide (rsc.toNat < 6) && decide (asc.toNat < 6)
  | .hsnd _ _ rsc asc _ _ _ => decide (rsc.toNat < 6) && decide (asc.toNat < 6)
  | .hgath _ _ rsc asc _ _ _ t => (t == .i32 || t == .i16x2 || t == .i8x4 || t == .i64) && decide (rsc.toNat < 6) && decide (asc.toNat < 6)
  | .hscat _ _ rsc asc _ _ _ t => (t == .i32 || t == .i16x2 || t == .i8x4 || t == .i64) && decide (rsc.toNat < 6) && decide (asc.toNat < 6)
  | .hsadd _ dl rsc asc _ _ _ t => (t == .i32 || t == .n32 || t == .fp32 || t == .bf16x2) && dl && decide (rsc.toNat < 6) && decide (asc.toNat < 6)
  | .hpfch _ _ _ => true
  | .qpush _ _ _ => true
  | .qpop _ _ _ => true
  | .qstop _ _ _ => true
  | .tidset _ _ _ => true
  | .mxmul _ _ _ => true
  | .mxdrn _ _ _ => true
  | .mxz _ _ => true
  | .plpin _ _ => true
  | .plunp _ _ => true
  | .pldlt _ _ => true
  | .plrd _ _ => true
  | .plspl _ scope _ _ _ _ => decide (scope.toNat < 6)
  | .plfil _ scope _ _ _ => decide (scope.toNat < 6)
  | .vdecl _ _ _ => true
  | .fork _ _ _ => true
  | .fence _ scope _ => decide (scope.toNat < 6)
  | .ctlrd _ _ _ => true
  | .ctlwr _ _ => true
  | .sysc _ _ _ _ => true
  | .activation core bank => decide (core < 256) && decide (bank < 8)
  | .headerRead core bank sub => decide (core < 256) && decide (bank < 8) && decide (sub < 4)
  | .blockCommit core rid => decide (core < 256) && decide (rid < 512)
  | .rowCloseComplete core rid => decide (core < 256) && decide (rid < 512)
  | .quantumEnd core rid => decide (core < 256) && decide (rid < 512)
  | .rowAged core rid => decide (core < 256) && decide (rid < 512)
  | .blockStall core rid => decide (core < 256) && decide (rid < 512)
  | .forcedClose core rid => decide (core < 256) && decide (rid < 512)
  | .preciseTrap core rid => decide (core < 256) && decide (rid < 512)
  | .asyncCondition _ => true
  | .acknowledgement _ => true
  | .waitWake core rid => decide (core < 256) && decide (rid < 512)
  | .remoteStoreArrival _ => true
  | .remoteAtomicArrival _ => true
  | .runreq core rid => decide (core < 256) && decide (rid < 512)
  | .stopreq core rid => decide (core < 256) && decide (rid < 512)
  | .redir core rid => decide (core < 256) && decide (rid < 512)
  | .qnotify f qid tail => decide (f < 513) && decide (qid < 256) && decide (tail < 65536)
  | .queueMapPending => true
  | .qcancel f qid index => decide (f < 513) && decide (qid < 256) && decide (index < 65536)
  | .selectionRound => true
  | .gangDispatch => true
  | .grelease f gang => decide (f < 513) && decide (gang < 65536)
  | .gangEnd gang => decide (gang < 65536)
  | .tstopStop f => decide (f < 513)
  | .tstopResume f => decide (f < 513)
  | .stopCycle core => decide (core < 256)
  | .stopDeadline core => decide (core < 256)
  | .coreQuiescent core => decide (core < 256)
  | .contextSave core => decide (core < 256)
  | .stopAbandon => true
  | .resumeTime => true
  | .chunkStart core entry => decide (core < 256) && decide (entry < 64)
  | .chunkComplete core entry => decide (core < 256) && decide (entry < 64)
  | .walkStart _ => true
  | .walkComplete _ => true
  | .pageRequestRecord _ => true
  | .prresp f tag status => decide (f < 513) && decide (tag < 256) && decide (status < 4)
  | .tlbinv _ f _ => decide (f < 513)
  | .tlbinvDone => true
  | .hbmAdmit _ => true
  | .hbmServe _ => true
  | .deadlineUrgent _ => true
  | .refmarkNotLive region count => decide (region < 262144) && decide (count < 65536)
  | .refmarkLive region count => decide (region < 262144) && decide (count < 65536)
  | .zeroFillComplete region => decide (region < 262144)
  | .patrolScrub stack => decide (stack < 8)
  | .neighbourRefresh stack _ _ => decide (stack < 8)
  | .hbmRowRemap stack _ _ => decide (stack < 8)
  | .leaseRevoke i => decide (i < 64)
  | .leaseDeadline i => decide (i < 64)
  | .exportDeadline i => decide (i < 64)
  | .fabricIngress _ => true
  | .fabricTimeout _ => true
  | .flitReplay port => decide (port < 76)
  | .portRetrain port _ => decide (port < 76)
  | .hostReadCompletion _ status => decide (status < 4)
  | .hostReadTimeout _ => true
  | .barrierArrival _ => true
  | .flipBroadcast _ => true
  | .stepStartNotice gang => decide (gang < 65536)
  | .drainArrivalSend _ => true
  | .superstepArrivalSend _ => true
  | .eventSignal _ => true
  | .eventWindowStore _ => true
  | .queueOpPerform core rid index => decide (core < 256) && decide (rid < 512) && decide (index < 65536)
  | .opaCommandAccept _ => true
  | .opaCommandStart core seq => decide (core < 256) && decide (seq < 4294967296)
  | .opaGroupFinal core seq => decide (core < 256) && decide (seq < 4294967296)
  | .opaCommandComplete core seq => decide (core < 256) && decide (seq < 4294967296)
  | .drainGroupWrite core seq => decide (core < 256) && decide (seq < 4294967296)
  | .windowStorePerform core seq => decide (core < 256) && decide (seq < 4294967296)
  | .windowLoadServe core rid index => decide (core < 256) && decide (rid < 512) && decide (index < 65536)
  | .forkClaim core rid => decide (core < 256) && decide (rid < 512)
  | .forkSearchComplete core rid index => decide (core < 256) && decide (rid < 512) && decide (index < 65536)
  | .taskStart _ => true
  | .claimRelease _ => true
  | .mergeStep _ => true
  | .pairMismatch _ => true
  | .pairTimeout _ => true
  | .rollback gang => decide (gang < 65536)
  | .scdone f index => decide (f < 513) && decide (index < 65536)
  | .capmint _ => true
  | .keyGenerate owner slot => decide (owner < 513) && decide (slot < 1024)
  | .keyDestroy slot => decide (slot < 1024)
  | .keyErase slot => decide (slot < 1024)
  | .parttabWrite node _ => decide (node < 512)
  | .quarantine stack => decide (stack < 8)
  | .quarantineComplete => true
  | .repairCommit => true
  | .repairDiscard => true
  | .coreDisable core => decide (core < 256)
  | .moduleReset => true
  | .bootctl _ => true
  | .d3hotEntry => true
  | .d0Entry => true
  | .lockInterface f => decide (f < 513)
  | .startInterface f => decide (f < 513)
  | .stopInterface f => decide (f < 513)
  | .getDeviceInterfaceReport f => decide (f < 513)
  | .getDeviceInterfaceState f => decide (f < 513)
  | .tdiError f => decide (f < 513)
  | .getVersion die => decide (die < 13)
  | .getCapabilities die => decide (die < 13)
  | .negotiateAlgorithms die _ => decide (die < 13)
  | .getDigests die => decide (die < 13)
  | .getCertificate die slot _ _ => decide (die < 13) && decide (slot < 1024)
  | .challenge die _ => decide (die < 13)
  | .getMeasurements die index _ => decide (die < 13) && decide (index < 65536)
  | .keyExchange die => decide (die < 13)
  | .finish die _ => decide (die < 13)
  | .heartbeat die _ => decide (die < 13)
  | .keyUpdate die _ => decide (die < 13)
  | .endSession die => decide (die < 13)
  | .heartbeatTimeout die => decide (die < 13)
  | .relayTimeout die => decide (die < 13)
  | .ideKm _ _ => true
  | .registerWrite f _ _ _ => decide (f < 513)
  | .lpddrServe _ => true
  | .arithmeticClockStep _ => true
  | .hostLinkTraining _ _ => true
  | .remapCopyComplete stack _ _ => decide (stack < 8)

end Sys2Proof
end

