-- ==== Sys2Proof/Decode.lean ====
section
/-!
DEFINITION. Decoding the instructions of a block body (R182, R196 to R203, R205, R273, R253, R291) and, after it, the encoder.
Encodings that R203 declares not an instruction are rejected by name.
-/

namespace Sys2Proof

/-- Why an encoding is not an instruction (R203, R347). -/
inductive Reject where
  | truncated         -- the first halfword has bit 0 = 1 and no second halfword follows
  | reservedOp        -- an OP value that R202 leaves open
  | reservedPred      -- P = 0b11 (R197)
  | reservedType      -- T = 15 (R199)
  | reservedSubfield  -- a K or T value that the opcode does not list
  | reservedBits      -- a bit that must be 0 is not
  | fieldValue        -- a T, X or immediate value that the instruction does not accept
  deriving DecidableEq, Repr

/-- The STYPE code (R200). -/
def ShortType.code : ShortType → Nat
  | .i32 => 0 | .n32 => 1 | .fp32 => 2 | .bf16x2 => 3 | .fp16x2 => 4 | .i8x4 => 5 | .e4m3x4 => 6 | .dm8x4 => 7

/-- The short type of an STYPE code (R200). -/
def ShortType.ofCode? : Nat → Option ShortType
  | 0 => some .i32 | 1 => some .n32 | 2 => some .fp32 | 3 => some .bf16x2
  | 4 => some .fp16x2 | 5 => some .i8x4 | 6 => some .e4m3x4 | 7 => some .dm8x4 | _ => none

/-- Go on with the P value of a code (R197). -/
def withPred (c : Nat) (k : Pred → Except Reject Instr) : Except Reject Instr :=
  match Pred.ofCode? c with
  | some p => k p
  | none => .error .reservedPred

/-- Go on with the X value of a code (R198). -/
def withX (c : Nat) (k : XMode → Except Reject Instr) : Except Reject Instr :=
  match XMode.ofCode? c with
  | some x => k x
  | none => .error .fieldValue

/-- Go on with the type of a T code (R199). -/
def withType (c : Nat) (k : LaneType → Except Reject Instr) : Except Reject Instr :=
  match LaneType.ofCode? c with
  | some t => k t
  | none => .error .reservedType

/-- Go on with the short type of an STYPE code (R200). -/
def withShort (c : Nat) (k : ShortType → Except Reject Instr) : Except Reject Instr :=
  match ShortType.ofCode? c with
  | some t => k t
  | none => .error .reservedType

/-- A condition on fixed bits of an encoding. -/
def need (b : Prop) [Decidable b] (r : Reject) (k : Except Reject Instr) : Except Reject Instr :=
  if b then k else .error r

/-- Accept an instruction whose field values it accepts (R203). -/
def accept (i : Instr) : Except Reject Instr :=
  if i.wf then .ok i else .error .fieldValue

/-- A 16-bit instruction (R201): OP4 in bits 4:1, STYPE in 7:5, TARGET in 15:8. -/
def decode16 (w : Nat) : Except Reject Instr :=
  match w / 2 % 16 with
  | 0 => withShort (w / 32 % 8) fun st => accept (.vadd_F16 (BitVec.ofNat 8 (w / 256 % 256)) st)
  | 1 => withShort (w / 32 % 8) fun st => accept (.vsub_F16 (BitVec.ofNat 8 (w / 256 % 256)) st)
  | 2 => withShort (w / 32 % 8) fun st => accept (.vmul_F16 (BitVec.ofNat 8 (w / 256 % 256)) st)
  | 3 => withShort (w / 32 % 8) fun st => accept (.vfma_F16 (BitVec.ofNat 8 (w / 256 % 256)) st)
  | 4 => withShort (w / 32 % 8) fun st => accept (.vmin_F16 (BitVec.ofNat 8 (w / 256 % 256)) st)
  | 5 => withShort (w / 32 % 8) fun st => accept (.vmax_F16 (BitVec.ofNat 8 (w / 256 % 256)) st)
  | 6 => withShort (w / 32 % 8) fun st => accept (.vand_F16 (BitVec.ofNat 8 (w / 256 % 256)) st)
  | 7 => withShort (w / 32 % 8) fun st => accept (.vor_F16 (BitVec.ofNat 8 (w / 256 % 256)) st)
  | 8 => withShort (w / 32 % 8) fun st => accept (.vxor_F16 (BitVec.ofNat 8 (w / 256 % 256)) st)
  | 9 => withShort (w / 32 % 8) fun st => accept (.vshl_F16 (BitVec.ofNat 8 (w / 256 % 256)) st)
  | 10 => withShort (w / 32 % 8) fun st => accept (.vshr_F16 (BitVec.ofNat 8 (w / 256 % 256)) st)
  | 11 => withShort (w / 32 % 8) fun st => accept (.mov_F16 (BitVec.ofNat 8 (w / 256 % 256)) st)
  | 12 => withShort (w / 32 % 8) fun st => accept (.tlt_F16 (BitVec.ofNat 8 (w / 256 % 256)) st)
  | 13 => withShort (w / 32 % 8) fun st => accept (.teq_F16 (BitVec.ofNat 8 (w / 256 % 256)) st)
  | 14 => withShort (w / 32 % 8) fun st => accept (.sel_F16 (BitVec.ofNat 8 (w / 256 % 256)) st)
  | 15 => withShort (w / 32 % 8) fun st => accept (.vdot_F16 (BitVec.ofNat 8 (w / 256 % 256)) st)
  | _ => .error .reservedOp

/-- A 32-bit instruction, by its OP field (R202). -/
def decode32 (w : Nat) : Except Reject Instr :=
  match w / 2 % 128 with
  | 0x00 => need (w / 256 % 16 = 0) .reservedSubfield <| withPred (w / 4096 % 4) fun p => accept (.br (BitVec.ofNat 18 (w / 16384 % 262144)) p)
  | 0x01 => need (w / 256 % 16 = 0) .reservedSubfield <| need (w / 16384 % 262144 = 0) .reservedBits <| withPred (w / 4096 % 4) fun p => accept (.brx p)
  | 0x02 => need (w / 256 % 16 = 0) .reservedSubfield <| withPred (w / 4096 % 4) fun p => accept (.call (BitVec.ofNat 18 (w / 16384 % 262144)) p)
  | 0x03 => 
    if w / 256 % 16 = 0 then withPred (w / 4096 % 4) fun p => accept (.loop (BitVec.ofNat 18 (w / 16384 % 262144)) p) else
    if w / 256 % 16 = 1 then need (w / 16384 % 262144 = 0) .reservedBits <| withPred (w / 4096 % 4) fun p => accept (.endl p) else
    if w / 256 % 16 = 2 then withPred (w / 4096 % 4) fun p => accept (.brkl (BitVec.ofNat 18 (w / 16384 % 262144)) p) else
    .error .reservedSubfield
  | 0x05 => need (w / 256 % 16 = 0) .reservedSubfield <| withPred (w / 4096 % 4) fun p => accept (.waitb (BitVec.ofNat 18 (w / 16384 % 262144)) p)
  | 0x06 => need (w / 256 % 16 = 0) .reservedSubfield <| withPred (w / 4096 % 4) fun p => accept (.waite (BitVec.ofNat 18 (w / 16384 % 262144)) p)
  | 0x07 => 
    if w / 256 % 16 = 0 then withPred (w / 4096 % 4) fun p => accept (.waitqr (BitVec.ofNat 18 (w / 16384 % 262144)) p) else
    if w / 256 % 16 = 1 then withPred (w / 4096 % 4) fun p => accept (.waitqd (BitVec.ofNat 18 (w / 16384 % 262144)) p) else
    .error .reservedSubfield
  | 0x08 => need (w / 256 % 16 = 0) .reservedSubfield <| withPred (w / 4096 % 4) fun p => accept (.yield (BitVec.ofNat 18 (w / 16384 % 262144)) p)
  | 0x09 => need (w / 256 % 16 = 0) .reservedSubfield <| withPred (w / 4096 % 4) fun p => accept (.halt (BitVec.ofNat 18 (w / 16384 % 262144)) p)
  | 0x0A => need (w / 256 % 16 = 0) .reservedSubfield <| need (w / 536870912 % 8 = 0) .reservedBits <| withPred (w / 4096 % 4) fun p => accept (.trap (BitVec.ofNat 15 (w / 16384 % 32768)) p)
  | 0x0B => need (w / 256 % 16 = 0) .reservedSubfield <| withPred (w / 4096 % 4) fun p => accept (.efence (BitVec.ofNat 18 (w / 16384 % 262144)) p)
  | 0x0C => need (w / 256 % 16 = 0) .reservedSubfield <| need (w / 16384 % 262144 = 0) .reservedBits <| withPred (w / 4096 % 4) fun p => accept (.splice p)
  | 0x0D => need (w / 256 % 16 = 0) .reservedSubfield <| withPred (w / 4096 % 4) fun p => accept (.forkr (BitVec.ofNat 18 (w / 16384 % 262144)) p)
  | 0x10 => accept (.movi (BitVec.ofNat 16 (w / 65536 % 65536)) (BitVec.ofNat 8 (w / 256 % 256)))
  | 0x11 => accept (.movih (BitVec.ofNat 16 (w / 65536 % 65536)) (BitVec.ofNat 8 (w / 256 % 256)))
  | 0x12 => need (w / 1073741824 % 4 = 0) .reservedBits <| withPred (w / 4096 % 4) fun p => withType (w / 256 % 16) fun t => accept (.mov (BitVec.ofNat 8 (w / 4194304 % 256)) (BitVec.ofNat 8 (w / 16384 % 256)) p t)
  | 0x14 => need (w / 1073741824 % 4 = 0) .reservedBits <| withPred (w / 4096 % 4) fun p => withType (w / 256 % 16) fun t => accept (.teq (BitVec.ofNat 8 (w / 4194304 % 256)) (BitVec.ofNat 8 (w / 16384 % 256)) p t)
  | 0x15 => need (w / 1073741824 % 4 = 0) .reservedBits <| withPred (w / 4096 % 4) fun p => withType (w / 256 % 16) fun t => accept (.tne (BitVec.ofNat 8 (w / 4194304 % 256)) (BitVec.ofNat 8 (w / 16384 % 256)) p t)
  | 0x16 => need (w / 1073741824 % 4 = 0) .reservedBits <| withPred (w / 4096 % 4) fun p => withType (w / 256 % 16) fun t => accept (.tlt (BitVec.ofNat 8 (w / 4194304 % 256)) (BitVec.ofNat 8 (w / 16384 % 256)) p t)
  | 0x17 => need (w / 1073741824 % 4 = 0) .reservedBits <| withPred (w / 4096 % 4) fun p => withType (w / 256 % 16) fun t => accept (.tle (BitVec.ofNat 8 (w / 4194304 % 256)) (BitVec.ofNat 8 (w / 16384 % 256)) p t)
  | 0x19 => need (w / 1073741824 % 4 = 0) .reservedBits <| withPred (w / 4096 % 4) fun p => withType (w / 256 % 16) fun t => accept (.sel (BitVec.ofNat 8 (w / 4194304 % 256)) (BitVec.ofNat 8 (w / 16384 % 256)) p t)
  | 0x1A => need (w / 256 % 16 = 0) .reservedSubfield <| need (w / 1073741824 % 4 = 0) .reservedBits <| withPred (w / 4096 % 4) fun p => accept (.pand (BitVec.ofNat 8 (w / 4194304 % 256)) (BitVec.ofNat 8 (w / 16384 % 256)) p)
  | 0x1B => need (w / 256 % 16 = 0) .reservedSubfield <| need (w / 1073741824 % 4 = 0) .reservedBits <| withPred (w / 4096 % 4) fun p => accept (.por (BitVec.ofNat 8 (w / 4194304 % 256)) (BitVec.ofNat 8 (w / 16384 % 256)) p)
  | 0x1C => need (w / 256 % 16 = 0) .reservedSubfield <| need (w / 1073741824 % 4 = 0) .reservedBits <| withPred (w / 4096 % 4) fun p => accept (.pnot (BitVec.ofNat 8 (w / 4194304 % 256)) (BitVec.ofNat 8 (w / 16384 % 256)) p)
  | 0x1D => need (w / 256 % 16 = 0) .reservedSubfield <| need (w / 1073741824 % 4 = 0) .reservedBits <| withPred (w / 4096 % 4) fun p => accept (.anyl (BitVec.ofNat 8 (w / 4194304 % 256)) (BitVec.ofNat 8 (w / 16384 % 256)) p)
  | 0x1E => need (w / 256 % 16 = 0) .reservedSubfield <| need (w / 1073741824 % 4 = 0) .reservedBits <| withPred (w / 4096 % 4) fun p => accept (.alll (BitVec.ofNat 8 (w / 4194304 % 256)) (BitVec.ofNat 8 (w / 16384 % 256)) p)
  | 0x20 => withX (w / 1073741824 % 4) fun x => withPred (w / 4096 % 4) fun p => withType (w / 256 % 16) fun t => accept (.adds x (BitVec.ofNat 8 (w / 4194304 % 256)) (BitVec.ofNat 8 (w / 16384 % 256)) p t)
  | 0x21 => withX (w / 1073741824 % 4) fun x => withPred (w / 4096 % 4) fun p => withType (w / 256 % 16) fun t => accept (.subs x (BitVec.ofNat 8 (w / 4194304 % 256)) (BitVec.ofNat 8 (w / 16384 % 256)) p t)
  | 0x22 => withX (w / 1073741824 % 4) fun x => withPred (w / 4096 % 4) fun p => withType (w / 256 % 16) fun t => accept (.muls x (BitVec.ofNat 8 (w / 4194304 % 256)) (BitVec.ofNat 8 (w / 16384 % 256)) p t)
  | 0x23 => need (w / 1073741824 % 4 = 0) .reservedBits <| withPred (w / 4096 % 4) fun p => withType (w / 256 % 16) fun t => accept (.mulhs (BitVec.ofNat 8 (w / 4194304 % 256)) (BitVec.ofNat 8 (w / 16384 % 256)) p t)
  | 0x24 => withX (w / 1073741824 % 4) fun x => withPred (w / 4096 % 4) fun p => withType (w / 256 % 16) fun t => accept (.divs x (BitVec.ofNat 8 (w / 4194304 % 256)) (BitVec.ofNat 8 (w / 16384 % 256)) p t)
  | 0x25 => need (w / 1073741824 % 4 = 0) .reservedBits <| withPred (w / 4096 % 4) fun p => withType (w / 256 % 16) fun t => accept (.rems (BitVec.ofNat 8 (w / 4194304 % 256)) (BitVec.ofNat 8 (w / 16384 % 256)) p t)
  | 0x26 => need (w / 1073741824 % 4 = 0) .reservedBits <| withPred (w / 4096 % 4) fun p => withType (w / 256 % 16) fun t => accept (.ands (BitVec.ofNat 8 (w / 4194304 % 256)) (BitVec.ofNat 8 (w / 16384 % 256)) p t)
  | 0x27 => need (w / 1073741824 % 4 = 0) .reservedBits <| withPred (w / 4096 % 4) fun p => withType (w / 256 % 16) fun t => accept (.ors (BitVec.ofNat 8 (w / 4194304 % 256)) (BitVec.ofNat 8 (w / 16384 % 256)) p t)
  | 0x28 => need (w / 1073741824 % 4 = 0) .reservedBits <| withPred (w / 4096 % 4) fun p => withType (w / 256 % 16) fun t => accept (.xors (BitVec.ofNat 8 (w / 4194304 % 256)) (BitVec.ofNat 8 (w / 16384 % 256)) p t)
  | 0x29 => withX (w / 1073741824 % 4) fun x => withPred (w / 4096 % 4) fun p => withType (w / 256 % 16) fun t => accept (.shls x (BitVec.ofNat 8 (w / 4194304 % 256)) (BitVec.ofNat 8 (w / 16384 % 256)) p t)
  | 0x2A => need (w / 1073741824 % 4 = 0) .reservedBits <| withPred (w / 4096 % 4) fun p => withType (w / 256 % 16) fun t => accept (.shrs (BitVec.ofNat 8 (w / 4194304 % 256)) (BitVec.ofNat 8 (w / 16384 % 256)) p t)
  | 0x2B => withPred (w / 4096 % 4) fun p => withType (w / 256 % 16) fun t => accept (.addis (BitVec.ofNat 10 (w / 4194304 % 1024)) (BitVec.ofNat 8 (w / 16384 % 256)) p t)
  | 0x2C => withPred (w / 4096 % 4) fun p => withType (w / 256 % 16) fun t => accept (.andis (BitVec.ofNat 10 (w / 4194304 % 1024)) (BitVec.ofNat 8 (w / 16384 % 256)) p t)
  | 0x2D => withPred (w / 4096 % 4) fun p => withType (w / 256 % 16) fun t => accept (.shis (BitVec.ofNat 10 (w / 4194304 % 1024)) (BitVec.ofNat 8 (w / 16384 % 256)) p t)
  | 0x2E => 
    if w / 256 % 16 = 0 then need (w / 1073741824 % 4 = 0) .reservedBits <| withPred (w / 4096 % 4) fun p => accept (.clzs (BitVec.ofNat 8 (w / 4194304 % 256)) (BitVec.ofNat 8 (w / 16384 % 256)) p) else
    if w / 256 % 16 = 1 then need (w / 1073741824 % 4 = 0) .reservedBits <| withPred (w / 4096 % 4) fun p => accept (.ctzs (BitVec.ofNat 8 (w / 4194304 % 256)) (BitVec.ofNat 8 (w / 16384 % 256)) p) else
    if w / 256 % 16 = 2 then need (w / 1073741824 % 4 = 0) .reservedBits <| withPred (w / 4096 % 4) fun p => accept (.popcs (BitVec.ofNat 8 (w / 4194304 % 256)) (BitVec.ofNat 8 (w / 16384 % 256)) p) else
    .error .reservedSubfield
  | 0x2F => 
    if w / 512 % 8 = 0 then need (w / 1073741824 % 4 = 0) .reservedBits <| withPred (w / 4096 % 4) fun p => accept (.mins (BitVec.ofNat 8 (w / 4194304 % 256)) (BitVec.ofNat 8 (w / 16384 % 256)) p (decide (w / 256 % 2 = 1))) else
    if w / 512 % 8 = 1 then need (w / 1073741824 % 4 = 0) .reservedBits <| withPred (w / 4096 % 4) fun p => accept (.maxs (BitVec.ofNat 8 (w / 4194304 % 256)) (BitVec.ofNat 8 (w / 16384 % 256)) p (decide (w / 256 % 2 = 1))) else
    .error .reservedSubfield
  | 0x30 => withX (w / 1073741824 % 4) fun x => withPred (w / 4096 % 4) fun p => withType (w / 256 % 16) fun t => accept (.vadd x (BitVec.ofNat 8 (w / 4194304 % 256)) (BitVec.ofNat 8 (w / 16384 % 256)) p t)
  | 0x31 => withX (w / 1073741824 % 4) fun x => withPred (w / 4096 % 4) fun p => withType (w / 256 % 16) fun t => accept (.vsub x (BitVec.ofNat 8 (w / 4194304 % 256)) (BitVec.ofNat 8 (w / 16384 % 256)) p t)
  | 0x32 => withX (w / 1073741824 % 4) fun x => withPred (w / 4096 % 4) fun p => withType (w / 256 % 16) fun t => accept (.vmul x (BitVec.ofNat 8 (w / 4194304 % 256)) (BitVec.ofNat 8 (w / 16384 % 256)) p t)
  | 0x33 => need (w / 1073741824 % 4 = 0) .reservedBits <| withPred (w / 4096 % 4) fun p => withType (w / 256 % 16) fun t => accept (.vmulh (BitVec.ofNat 8 (w / 4194304 % 256)) (BitVec.ofNat 8 (w / 16384 % 256)) p t)
  | 0x34 => withX (w / 1073741824 % 4) fun x => withPred (w / 4096 % 4) fun p => withType (w / 256 % 16) fun t => accept (.vfma x (BitVec.ofNat 8 (w / 4194304 % 256)) (BitVec.ofNat 8 (w / 16384 % 256)) p t)
  | 0x35 => need (w / 1073741824 % 4 = 0) .reservedBits <| withPred (w / 4096 % 4) fun p => withType (w / 256 % 16) fun t => accept (.vmin (BitVec.ofNat 8 (w / 4194304 % 256)) (BitVec.ofNat 8 (w / 16384 % 256)) p t)
  | 0x36 => need (w / 1073741824 % 4 = 0) .reservedBits <| withPred (w / 4096 % 4) fun p => withType (w / 256 % 16) fun t => accept (.vmax (BitVec.ofNat 8 (w / 4194304 % 256)) (BitVec.ofNat 8 (w / 16384 % 256)) p t)
  | 0x39 => need (w / 1073741824 % 4 = 0) .reservedBits <| withPred (w / 4096 % 4) fun p => withType (w / 256 % 16) fun t => accept (.vand (BitVec.ofNat 8 (w / 4194304 % 256)) (BitVec.ofNat 8 (w / 16384 % 256)) p t)
  | 0x3A => need (w / 1073741824 % 4 = 0) .reservedBits <| withPred (w / 4096 % 4) fun p => withType (w / 256 % 16) fun t => accept (.vor (BitVec.ofNat 8 (w / 4194304 % 256)) (BitVec.ofNat 8 (w / 16384 % 256)) p t)
  | 0x3B => need (w / 1073741824 % 4 = 0) .reservedBits <| withPred (w / 4096 % 4) fun p => withType (w / 256 % 16) fun t => accept (.vxor (BitVec.ofNat 8 (w / 4194304 % 256)) (BitVec.ofNat 8 (w / 16384 % 256)) p t)
  | 0x3C => withX (w / 1073741824 % 4) fun x => withPred (w / 4096 % 4) fun p => withType (w / 256 % 16) fun t => accept (.vshl x (BitVec.ofNat 8 (w / 4194304 % 256)) (BitVec.ofNat 8 (w / 16384 % 256)) p t)
  | 0x3D => need (w / 1073741824 % 4 = 0) .reservedBits <| withPred (w / 4096 % 4) fun p => withType (w / 256 % 16) fun t => accept (.vshr (BitVec.ofNat 8 (w / 4194304 % 256)) (BitVec.ofNat 8 (w / 16384 % 256)) p t)
  | 0x3E => withPred (w / 4096 % 4) fun p => withType (w / 256 % 16) fun t => accept (.vaddi (BitVec.ofNat 10 (w / 4194304 % 1024)) (BitVec.ofNat 8 (w / 16384 % 256)) p t)
  | 0x3F => withX (w / 1073741824 % 4) fun x => withPred (w / 4096 % 4) fun p => withType (w / 256 % 16) fun t => accept (.vdot x (BitVec.ofNat 8 (w / 4194304 % 256)) (BitVec.ofNat 8 (w / 16384 % 256)) p t)
  | 0x40 => need (w / 256 % 16 = 6) .reservedSubfield <| withX (w / 1073741824 % 4) fun x => withPred (w / 4096 % 4) fun p => accept (.vdiv x (BitVec.ofNat 8 (w / 4194304 % 256)) (BitVec.ofNat 8 (w / 16384 % 256)) p)
  | 0x41 => need (w / 256 % 16 = 6) .reservedSubfield <| withX (w / 1073741824 % 4) fun x => withPred (w / 4096 % 4) fun p => accept (.vsqrt x (BitVec.ofNat 8 (w / 4194304 % 256)) (BitVec.ofNat 8 (w / 16384 % 256)) p)
  | 0x42 => need (w / 256 % 16 = 6) .reservedSubfield <| need (w / 1073741824 % 4 = 0) .reservedBits <| withPred (w / 4096 % 4) fun p => accept (.vrcp (BitVec.ofNat 8 (w / 4194304 % 256)) (BitVec.ofNat 8 (w / 16384 % 256)) p)
  | 0x43 => need (w / 256 % 16 = 6) .reservedSubfield <| need (w / 1073741824 % 4 = 0) .reservedBits <| withPred (w / 4096 % 4) fun p => accept (.vrsq (BitVec.ofNat 8 (w / 4194304 % 256)) (BitVec.ofNat 8 (w / 16384 % 256)) p)
  | 0x44 => need (w / 256 % 16 = 6) .reservedSubfield <| need (w / 1073741824 % 4 = 0) .reservedBits <| withPred (w / 4096 % 4) fun p => accept (.vexp2 (BitVec.ofNat 8 (w / 4194304 % 256)) (BitVec.ofNat 8 (w / 16384 % 256)) p)
  | 0x45 => need (w / 256 % 16 = 6) .reservedSubfield <| need (w / 1073741824 % 4 = 0) .reservedBits <| withPred (w / 4096 % 4) fun p => accept (.vlog2 (BitVec.ofNat 8 (w / 4194304 % 256)) (BitVec.ofNat 8 (w / 16384 % 256)) p)
  | 0x48 => need (w / 67108864 % 16 = 0) .reservedBits <| withType (w / 4194304 % 16) fun src => withPred (w / 4096 % 4) fun p => withType (w / 256 % 16) fun t => accept (.vcvt (BitVec.ofNat 2 (w / 1073741824 % 4)) src (BitVec.ofNat 8 (w / 16384 % 256)) p t)
  | 0x49 => withX (w / 1073741824 % 4) fun x => withPred (w / 4096 % 4) fun p => withType (w / 256 % 16) fun t => accept (.vcvts x (BitVec.ofNat 8 (w / 4194304 % 256)) (BitVec.ofNat 8 (w / 16384 % 256)) p t)
  | 0x4A => withX (w / 1073741824 % 4) fun x => withPred (w / 4096 % 4) fun p => withType (w / 256 % 16) fun t => accept (.vpack x (BitVec.ofNat 8 (w / 4194304 % 256)) (BitVec.ofNat 8 (w / 16384 % 256)) p t)
  | 0x4B => need (w / 1073741824 % 4 = 0) .reservedBits <| withPred (w / 4096 % 4) fun p => withType (w / 256 % 16) fun t => accept (.vunpk (BitVec.ofNat 8 (w / 4194304 % 256)) (BitVec.ofNat 8 (w / 16384 % 256)) p t)
  | 0x4C => withPred (w / 4096 % 4) fun p => withType (w / 256 % 16) fun t => accept (.vrnd (BitVec.ofNat 10 (w / 4194304 % 1024)) (BitVec.ofNat 8 (w / 16384 % 256)) p t)
  | 0x4E => need (w / 1073741824 % 4 = 0) .reservedBits <| withPred (w / 4096 % 4) fun p => withType (w / 256 % 16) fun t => accept (.vrand (BitVec.ofNat 8 (w / 4194304 % 256)) (BitVec.ofNat 8 (w / 16384 % 256)) p t)
  | 0x50 => withPred (w / 4096 % 4) fun p => withType (w / 256 % 16) fun t => accept (.vbce (BitVec.ofNat 10 (w / 4194304 % 1024)) (BitVec.ofNat 8 (w / 16384 % 256)) p t)
  | 0x51 => need (w / 1073741824 % 4 = 0) .reservedBits <| withPred (w / 4096 % 4) fun p => withType (w / 256 % 16) fun t => accept (.vshuf (BitVec.ofNat 8 (w / 4194304 % 256)) (BitVec.ofNat 8 (w / 16384 % 256)) p t)
  | 0x52 => withPred (w / 4096 % 4) fun p => withType (w / 256 % 16) fun t => accept (.vred (BitVec.ofNat 10 (w / 4194304 % 1024)) (BitVec.ofNat 8 (w / 16384 % 256)) p t)
  | 0x53 => withPred (w / 4096 % 4) fun p => withType (w / 256 % 16) fun t => accept (.vscan (BitVec.ofNat 10 (w / 4194304 % 1024)) (BitVec.ofNat 8 (w / 16384 % 256)) p t)
  | 0x55 => need (w / 1073741824 % 4 = 0) .reservedBits <| withPred (w / 4096 % 4) fun p => withType (w / 256 % 16) fun t => accept (.vins (BitVec.ofNat 8 (w / 4194304 % 256)) (BitVec.ofNat 8 (w / 16384 % 256)) p t)
  | 0x56 => need (w / 1073741824 % 4 = 0) .reservedBits <| withPred (w / 4096 % 4) fun p => withType (w / 256 % 16) fun t => accept (.vext (BitVec.ofNat 8 (w / 4194304 % 256)) (BitVec.ofNat 8 (w / 16384 % 256)) p t)
  | 0x57 => need (w / 512 % 8 = 0) .reservedBits <| need (w / 1073741824 % 4 = 0) .reservedBits <| withPred (w / 4096 % 4) fun p => accept (.vcmpr (BitVec.ofNat 8 (w / 4194304 % 256)) (BitVec.ofNat 8 (w / 16384 % 256)) p (decide (w / 256 % 2 = 1)))
  | 0x58 => need (w / 256 % 16 = 0) .reservedSubfield <| withPred (w / 4096 % 4) fun p => accept (.ldv (BitVec.ofNat 4 (w / 268435456 % 16)) (BitVec.ofNat 6 (w / 4194304 % 64)) (BitVec.ofNat 8 (w / 16384 % 256)) p)
  | 0x59 => need (w / 256 % 16 = 0) .reservedSubfield <| withPred (w / 4096 % 4) fun p => accept (.stv (BitVec.ofNat 4 (w / 268435456 % 16)) (BitVec.ofNat 14 (w / 16384 % 16384)) p)
  | 0x5A => withPred (w / 4096 % 4) fun p => withType (w / 256 % 16) fun t => accept (.lds (BitVec.ofNat 4 (w / 268435456 % 16)) (BitVec.ofNat 6 (w / 4194304 % 64)) (BitVec.ofNat 8 (w / 16384 % 256)) p t)
  | 0x5B => withPred (w / 4096 % 4) fun p => withType (w / 256 % 16) fun t => accept (.sts (BitVec.ofNat 4 (w / 268435456 % 16)) (BitVec.ofNat 14 (w / 16384 % 16384)) p t)
  | 0x5C => withPred (w / 4096 % 4) fun p => withType (w / 256 % 16) fun t => accept (.ldgv (BitVec.ofNat 4 (w / 268435456 % 16)) (BitVec.ofNat 6 (w / 4194304 % 64)) (BitVec.ofNat 8 (w / 16384 % 256)) p t)
  | 0x5D => withPred (w / 4096 % 4) fun p => withType (w / 256 % 16) fun t => accept (.stsv (BitVec.ofNat 4 (w / 268435456 % 16)) (BitVec.ofNat 14 (w / 16384 % 16384)) p t)
  | 0x5E => withPred (w / 4096 % 4) fun p => withType (w / 256 % 16) fun t => accept (.ldvs (BitVec.ofNat 4 (w / 268435456 % 16)) (BitVec.ofNat 6 (w / 4194304 % 64)) (BitVec.ofNat 8 (w / 16384 % 256)) p t)
  | 0x5F => withPred (w / 4096 % 4) fun p => withType (w / 256 % 16) fun t => accept (.stvs (BitVec.ofNat 4 (w / 268435456 % 16)) (BitVec.ofNat 14 (w / 16384 % 16384)) p t)
  | 0x60 => withPred (w / 4096 % 4) fun p => withType (w / 256 % 16) fun t => accept (.aop (BitVec.ofNat 4 (w / 268435456 % 16)) (BitVec.ofNat 6 (w / 4194304 % 64)) (BitVec.ofNat 8 (w / 16384 % 256)) p t)
  | 0x61 => need (w / 4194304 % 64 = 0) .reservedBits <| withPred (w / 4096 % 4) fun p => withType (w / 256 % 16) fun t => accept (.acas (BitVec.ofNat 4 (w / 268435456 % 16)) (BitVec.ofNat 8 (w / 16384 % 256)) p t)
  | 0x62 => need (w / 256 % 16 = 0) .reservedSubfield <| need (w / 32768 % 8192 = 0) .reservedBits <| withPred (w / 4096 % 4) fun p => accept (.binit (BitVec.ofNat 4 (w / 268435456 % 16)) (decide (w / 16384 % 2 = 1)) p)
  | 0x63 => need (w / 256 % 16 = 0) .reservedSubfield <| need (w / 16384 % 16384 = 0) .reservedBits <| withPred (w / 4096 % 4) fun p => accept (.barv (BitVec.ofNat 4 (w / 268435456 % 16)) p)
  | 0x64 => need (w / 256 % 16 = 0) .reservedSubfield <| need (w / 32768 % 8192 = 0) .reservedBits <| withPred (w / 4096 % 4) fun p => accept (.bexp (BitVec.ofNat 4 (w / 268435456 % 16)) (decide (w / 16384 % 2 = 1)) p)
  | 0x65 => need (w / 256 % 16 = 0) .reservedSubfield <| need (w / 4194304 % 64 = 0) .reservedBits <| withPred (w / 4096 % 4) fun p => accept (.bph (BitVec.ofNat 4 (w / 268435456 % 16)) (BitVec.ofNat 8 (w / 16384 % 256)) p)
  | 0x66 => need (w / 256 % 16 = 0) .reservedSubfield <| need (w / 16384 % 16384 = 0) .reservedBits <| withPred (w / 4096 % 4) fun p => accept (.drain (BitVec.ofNat 4 (w / 268435456 % 16)) p)
  | 0x67 => need (w / 256 % 16 = 0) .reservedSubfield <| need (w / 65536 % 4096 = 0) .reservedBits <| withPred (w / 4096 % 4) fun p => accept (.evsig (BitVec.ofNat 4 (w / 268435456 % 16)) (BitVec.ofNat 2 (w / 16384 % 4)) p)
  | 0x68 => need (w / 256 % 16 = 0) .reservedSubfield <| need (w / 8388608 % 32 = 0) .reservedBits <| withPred (w / 4096 % 4) fun p => accept (.hget (BitVec.ofNat 4 (w / 268435456 % 16)) (decide (w / 4194304 % 2 = 1)) (BitVec.ofNat 3 (w / 524288 % 8)) (BitVec.ofNat 3 (w / 65536 % 8)) (decide (w / 32768 % 2 = 1)) (decide (w / 16384 % 2 = 1)) p)
  | 0x69 => need (w / 256 % 16 = 0) .reservedSubfield <| need (w / 8388608 % 32 = 0) .reservedBits <| withPred (w / 4096 % 4) fun p => accept (.hsnd (BitVec.ofNat 4 (w / 268435456 % 16)) (decide (w / 4194304 % 2 = 1)) (BitVec.ofNat 3 (w / 524288 % 8)) (BitVec.ofNat 3 (w / 65536 % 8)) (decide (w / 32768 % 2 = 1)) (decide (w / 16384 % 2 = 1)) p)
  | 0x6A => need (w / 8388608 % 32 = 0) .reservedBits <| withPred (w / 4096 % 4) fun p => withType (w / 256 % 16) fun t => accept (.hgath (BitVec.ofNat 4 (w / 268435456 % 16)) (decide (w / 4194304 % 2 = 1)) (BitVec.ofNat 3 (w / 524288 % 8)) (BitVec.ofNat 3 (w / 65536 % 8)) (decide (w / 32768 % 2 = 1)) (decide (w / 16384 % 2 = 1)) p t)
  | 0x6B => need (w / 8388608 % 32 = 0) .reservedBits <| withPred (w / 4096 % 4) fun p => withType (w / 256 % 16) fun t => accept (.hscat (BitVec.ofNat 4 (w / 268435456 % 16)) (decide (w / 4194304 % 2 = 1)) (BitVec.ofNat 3 (w / 524288 % 8)) (BitVec.ofNat 3 (w / 65536 % 8)) (decide (w / 32768 % 2 = 1)) (decide (w / 16384 % 2 = 1)) p t)
  | 0x6C => need (w / 8388608 % 32 = 0) .reservedBits <| withPred (w / 4096 % 4) fun p => withType (w / 256 % 16) fun t => accept (.hsadd (BitVec.ofNat 4 (w / 268435456 % 16)) (decide (w / 4194304 % 2 = 1)) (BitVec.ofNat 3 (w / 524288 % 8)) (BitVec.ofNat 3 (w / 65536 % 8)) (decide (w / 32768 % 2 = 1)) (decide (w / 16384 % 2 = 1)) p t)
  | 0x6D => need (w / 256 % 16 = 0) .reservedSubfield <| need (w / 16384 % 256 = 0) .reservedBits <| need (w / 8388608 % 32 = 0) .reservedBits <| withPred (w / 4096 % 4) fun p => accept (.hpfch (BitVec.ofNat 4 (w / 268435456 % 16)) (decide (w / 4194304 % 2 = 1)) p)
  | 0x6F => 
    if w / 256 % 16 = 0 then need (w / 4194304 % 64 = 0) .reservedBits <| withPred (w / 4096 % 4) fun p => accept (.qpush (BitVec.ofNat 4 (w / 268435456 % 16)) (BitVec.ofNat 8 (w / 16384 % 256)) p) else
    if w / 256 % 16 = 1 then need (w / 4194304 % 64 = 0) .reservedBits <| withPred (w / 4096 % 4) fun p => accept (.qpop (BitVec.ofNat 4 (w / 268435456 % 16)) (BitVec.ofNat 8 (w / 16384 % 256)) p) else
    if w / 256 % 16 = 2 then need (w / 4194304 % 64 = 0) .reservedBits <| withPred (w / 4096 % 4) fun p => accept (.qstop (BitVec.ofNat 4 (w / 268435456 % 16)) (BitVec.ofNat 8 (w / 16384 % 256)) p) else
    .error .reservedSubfield
  | 0x70 => need (w / 256 % 16 = 0) .reservedSubfield <| need (w / 1048576 % 256 = 0) .reservedBits <| withPred (w / 4096 % 4) fun p => accept (.tidset (BitVec.ofNat 4 (w / 268435456 % 16)) (BitVec.ofNat 6 (w / 16384 % 64)) p)
  | 0x71 => need (w / 256 % 16 = 0) .reservedSubfield <| need (w / 32768 % 8192 = 0) .reservedBits <| withPred (w / 4096 % 4) fun p => accept (.mxmul (BitVec.ofNat 4 (w / 268435456 % 16)) (decide (w / 16384 % 2 = 1)) p)
  | 0x72 => need (w / 256 % 16 = 0) .reservedSubfield <| need (w / 32768 % 8192 = 0) .reservedBits <| withPred (w / 4096 % 4) fun p => accept (.mxdrn (BitVec.ofNat 4 (w / 268435456 % 16)) (decide (w / 16384 % 2 = 1)) p)
  | 0x73 => need (w / 256 % 16 = 0) .reservedSubfield <| need (w / 16384 % 16384 = 0) .reservedBits <| withPred (w / 4096 % 4) fun p => accept (.mxz (BitVec.ofNat 4 (w / 268435456 % 16)) p)
  | 0x74 => 
    if w / 256 % 16 = 0 then need (w / 16384 % 16384 = 0) .reservedBits <| withPred (w / 4096 % 4) fun p => accept (.plpin (BitVec.ofNat 4 (w / 268435456 % 16)) p) else
    if w / 256 % 16 = 1 then need (w / 16384 % 16384 = 0) .reservedBits <| withPred (w / 4096 % 4) fun p => accept (.plunp (BitVec.ofNat 4 (w / 268435456 % 16)) p) else
    .error .reservedSubfield
  | 0x75 => need (w / 256 % 16 = 0) .reservedSubfield <| need (w / 16384 % 16384 = 0) .reservedBits <| withPred (w / 4096 % 4) fun p => accept (.pldlt (BitVec.ofNat 4 (w / 268435456 % 16)) p)
  | 0x76 => need (w / 256 % 16 = 0) .reservedSubfield <| need (w / 16384 % 16384 = 0) .reservedBits <| withPred (w / 4096 % 4) fun p => accept (.plrd (BitVec.ofNat 4 (w / 268435456 % 16)) p)
  | 0x77 => 
    if w / 256 % 16 = 0 then need (w / 1048576 % 256 = 0) .reservedBits <| withPred (w / 4096 % 4) fun p => accept (.plspl (BitVec.ofNat 4 (w / 268435456 % 16)) (BitVec.ofNat 3 (w / 131072 % 8)) (decide (w / 65536 % 2 = 1)) (decide (w / 32768 % 2 = 1)) (decide (w / 16384 % 2 = 1)) p) else
    if w / 256 % 16 = 1 then need (w / 16384 % 2 = 0) .reservedBits <| need (w / 1048576 % 256 = 0) .reservedBits <| withPred (w / 4096 % 4) fun p => accept (.plfil (BitVec.ofNat 4 (w / 268435456 % 16)) (BitVec.ofNat 3 (w / 131072 % 8)) (decide (w / 65536 % 2 = 1)) (decide (w / 32768 % 2 = 1)) p) else
    .error .reservedSubfield
  | 0x78 => need (w / 256 % 16 = 0) .reservedSubfield <| need (w / 65536 % 4096 = 0) .reservedBits <| withPred (w / 4096 % 4) fun p => accept (.vdecl (BitVec.ofNat 4 (w / 268435456 % 16)) (BitVec.ofNat 2 (w / 16384 % 4)) p)
  | 0x79 => need (w / 256 % 16 = 0) .reservedSubfield <| need (w / 32768 % 8192 = 0) .reservedBits <| withPred (w / 4096 % 4) fun p => accept (.fork (BitVec.ofNat 4 (w / 268435456 % 16)) (decide (w / 16384 % 2 = 1)) p)
  | 0x7B => need (w / 256 % 16 = 0) .reservedSubfield <| need (w / 131072 % 2048 = 0) .reservedBits <| withPred (w / 4096 % 4) fun p => accept (.fence (BitVec.ofNat 4 (w / 268435456 % 16)) (BitVec.ofNat 3 (w / 16384 % 8)) p)
  | 0x7C => need (w / 256 % 16 = 0) .reservedSubfield <| need (w / 4194304 % 64 = 0) .reservedBits <| withPred (w / 4096 % 4) fun p => accept (.ctlrd (BitVec.ofNat 4 (w / 268435456 % 16)) (BitVec.ofNat 8 (w / 16384 % 256)) p)
  | 0x7D => need (w / 256 % 16 = 0) .reservedSubfield <| need (w / 16384 % 16384 = 0) .reservedBits <| withPred (w / 4096 % 4) fun p => accept (.ctlwr (BitVec.ofNat 4 (w / 268435456 % 16)) p)
  | 0x7E => need (w / 256 % 16 = 0) .reservedSubfield <| withPred (w / 4096 % 4) fun p => accept (.sysc (BitVec.ofNat 4 (w / 268435456 % 16)) (BitVec.ofNat 6 (w / 4194304 % 64)) (BitVec.ofNat 8 (w / 16384 % 256)) p)
  | _ => .error .reservedOp

/-- The instruction of a raw word of a body: bit 0 of the first halfword gives the length (R182). -/
def decodeWord (w : Nat) : Except Reject Instr :=
  if w % 2 = 0 then decode16 w else decode32 w

/-- Read one instruction from a list of body bytes (little-endian halfwords, R181, R182): the instruction and the rest. -/
def decode : List Byte → Except Reject (Instr × List Byte)
  | b0 :: b1 :: rest =>
    let h := b0.toNat + 256 * b1.toNat
    if h % 2 = 0 then (decode16 h).map fun i => (i, rest)
    else
      match rest with
      | b2 :: b3 :: rest' => (decode32 (h + 65536 * b2.toNat + 16777216 * b3.toNat)).map fun i => (i, rest')
      | _ => .error .truncated
  | _ => .error .truncated

/-- The encoder: the bits of an instruction and how many (R196, R201, R205, R253, R273, R291); a step has no encoding. -/
def encode : Instr → Option (Nat × Nat)
  | .br off p => some (32, 1 + 4096 * p.code + 16384 * off.toNat)
  | .brx p => some (32, 3 + 4096 * p.code)
  | .call off p => some (32, 5 + 4096 * p.code + 16384 * off.toNat)
  | .loop off p => some (32, 7 + 4096 * p.code + 16384 * off.toNat)
  | .endl p => some (32, 263 + 4096 * p.code)
  | .brkl off p => some (32, 519 + 4096 * p.code + 16384 * off.toNat)
  | .waitb off p => some (32, 11 + 4096 * p.code + 16384 * off.toNat)
  | .waite off p => some (32, 13 + 4096 * p.code + 16384 * off.toNat)
  | .waitqr off p => some (32, 15 + 4096 * p.code + 16384 * off.toNat)
  | .waitqd off p => some (32, 271 + 4096 * p.code + 16384 * off.toNat)
  | .yield off p => some (32, 17 + 4096 * p.code + 16384 * off.toNat)
  | .halt off p => some (32, 19 + 4096 * p.code + 16384 * off.toNat)
  | .trap code p => some (32, 21 + 4096 * p.code + 16384 * code.toNat)
  | .efence off p => some (32, 23 + 4096 * p.code + 16384 * off.toNat)
  | .splice p => some (32, 25 + 4096 * p.code)
  | .forkr off p => some (32, 27 + 4096 * p.code + 16384 * off.toNat)
  | .movi imm t0 => some (32, 33 + 256 * t0.toNat + 65536 * imm.toNat)
  | .movih imm t0 => some (32, 35 + 256 * t0.toNat + 65536 * imm.toNat)
  | .mov t1 t0 p t => some (32, 37 + 256 * t.code + 4096 * p.code + 16384 * t0.toNat + 4194304 * t1.toNat)
  | .mov_F16 t0 st => some (16, 22 + 32 * st.code + 256 * t0.toNat)
  | .teq t1 t0 p t => some (32, 41 + 256 * t.code + 4096 * p.code + 16384 * t0.toNat + 4194304 * t1.toNat)
  | .teq_F16 t0 st => some (16, 26 + 32 * st.code + 256 * t0.toNat)
  | .tne t1 t0 p t => some (32, 43 + 256 * t.code + 4096 * p.code + 16384 * t0.toNat + 4194304 * t1.toNat)
  | .tlt t1 t0 p t => some (32, 45 + 256 * t.code + 4096 * p.code + 16384 * t0.toNat + 4194304 * t1.toNat)
  | .tlt_F16 t0 st => some (16, 24 + 32 * st.code + 256 * t0.toNat)
  | .tle t1 t0 p t => some (32, 47 + 256 * t.code + 4096 * p.code + 16384 * t0.toNat + 4194304 * t1.toNat)
  | .sel t1 t0 p t => some (32, 51 + 256 * t.code + 4096 * p.code + 16384 * t0.toNat + 4194304 * t1.toNat)
  | .sel_F16 t0 st => some (16, 28 + 32 * st.code + 256 * t0.toNat)
  | .pand t1 t0 p => some (32, 53 + 4096 * p.code + 16384 * t0.toNat + 4194304 * t1.toNat)
  | .por t1 t0 p => some (32, 55 + 4096 * p.code + 16384 * t0.toNat + 4194304 * t1.toNat)
  | .pnot t1 t0 p => some (32, 57 + 4096 * p.code + 16384 * t0.toNat + 4194304 * t1.toNat)
  | .anyl t1 t0 p => some (32, 59 + 4096 * p.code + 16384 * t0.toNat + 4194304 * t1.toNat)
  | .alll t1 t0 p => some (32, 61 + 4096 * p.code + 16384 * t0.toNat + 4194304 * t1.toNat)
  | .adds x t1 t0 p t => some (32, 65 + 256 * t.code + 4096 * p.code + 16384 * t0.toNat + 4194304 * t1.toNat + 1073741824 * x.code)
  | .subs x t1 t0 p t => some (32, 67 + 256 * t.code + 4096 * p.code + 16384 * t0.toNat + 4194304 * t1.toNat + 1073741824 * x.code)
  | .muls x t1 t0 p t => some (32, 69 + 256 * t.code + 4096 * p.code + 16384 * t0.toNat + 4194304 * t1.toNat + 1073741824 * x.code)
  | .mulhs t1 t0 p t => some (32, 71 + 256 * t.code + 4096 * p.code + 16384 * t0.toNat + 4194304 * t1.toNat)
  | .divs x t1 t0 p t => some (32, 73 + 256 * t.code + 4096 * p.code + 16384 * t0.toNat + 4194304 * t1.toNat + 1073741824 * x.code)
  | .rems t1 t0 p t => some (32, 75 + 256 * t.code + 4096 * p.code + 16384 * t0.toNat + 4194304 * t1.toNat)
  | .ands t1 t0 p t => some (32, 77 + 256 * t.code + 4096 * p.code + 16384 * t0.toNat + 4194304 * t1.toNat)
  | .ors t1 t0 p t => some (32, 79 + 256 * t.code + 4096 * p.code + 16384 * t0.toNat + 4194304 * t1.toNat)
  | .xors t1 t0 p t => some (32, 81 + 256 * t.code + 4096 * p.code + 16384 * t0.toNat + 4194304 * t1.toNat)
  | .shls x t1 t0 p t => some (32, 83 + 256 * t.code + 4096 * p.code + 16384 * t0.toNat + 4194304 * t1.toNat + 1073741824 * x.code)
  | .shrs t1 t0 p t => some (32, 85 + 256 * t.code + 4096 * p.code + 16384 * t0.toNat + 4194304 * t1.toNat)
  | .addis imm t0 p t => some (32, 87 + 256 * t.code + 4096 * p.code + 16384 * t0.toNat + 4194304 * imm.toNat)
  | .andis imm t0 p t => some (32, 89 + 256 * t.code + 4096 * p.code + 16384 * t0.toNat + 4194304 * imm.toNat)
  | .shis imm t0 p t => some (32, 91 + 256 * t.code + 4096 * p.code + 16384 * t0.toNat + 4194304 * imm.toNat)
  | .clzs t1 t0 p => some (32, 93 + 4096 * p.code + 16384 * t0.toNat + 4194304 * t1.toNat)
  | .ctzs t1 t0 p => some (32, 349 + 4096 * p.code + 16384 * t0.toNat + 4194304 * t1.toNat)
  | .popcs t1 t0 p => some (32, 605 + 4096 * p.code + 16384 * t0.toNat + 4194304 * t1.toNat)
  | .mins t1 t0 p u => some (32, 95 + 256 * u.toNat + 4096 * p.code + 16384 * t0.toNat + 4194304 * t1.toNat)
  | .maxs t1 t0 p u => some (32, 607 + 256 * u.toNat + 4096 * p.code + 16384 * t0.toNat + 4194304 * t1.toNat)
  | .vadd x t1 t0 p t => some (32, 97 + 256 * t.code + 4096 * p.code + 16384 * t0.toNat + 4194304 * t1.toNat + 1073741824 * x.code)
  | .vadd_F16 t0 st => some (16, 0 + 32 * st.code + 256 * t0.toNat)
  | .vsub x t1 t0 p t => some (32, 99 + 256 * t.code + 4096 * p.code + 16384 * t0.toNat + 4194304 * t1.toNat + 1073741824 * x.code)
  | .vsub_F16 t0 st => some (16, 2 + 32 * st.code + 256 * t0.toNat)
  | .vmul x t1 t0 p t => some (32, 101 + 256 * t.code + 4096 * p.code + 16384 * t0.toNat + 4194304 * t1.toNat + 1073741824 * x.code)
  | .vmul_F16 t0 st => some (16, 4 + 32 * st.code + 256 * t0.toNat)
  | .vmulh t1 t0 p t => some (32, 103 + 256 * t.code + 4096 * p.code + 16384 * t0.toNat + 4194304 * t1.toNat)
  | .vfma x t1 t0 p t => some (32, 105 + 256 * t.code + 4096 * p.code + 16384 * t0.toNat + 4194304 * t1.toNat + 1073741824 * x.code)
  | .vfma_F16 t0 st => some (16, 6 + 32 * st.code + 256 * t0.toNat)
  | .vmin t1 t0 p t => some (32, 107 + 256 * t.code + 4096 * p.code + 16384 * t0.toNat + 4194304 * t1.toNat)
  | .vmin_F16 t0 st => some (16, 8 + 32 * st.code + 256 * t0.toNat)
  | .vmax t1 t0 p t => some (32, 109 + 256 * t.code + 4096 * p.code + 16384 * t0.toNat + 4194304 * t1.toNat)
  | .vmax_F16 t0 st => some (16, 10 + 32 * st.code + 256 * t0.toNat)
  | .vand t1 t0 p t => some (32, 115 + 256 * t.code + 4096 * p.code + 16384 * t0.toNat + 4194304 * t1.toNat)
  | .vand_F16 t0 st => some (16, 12 + 32 * st.code + 256 * t0.toNat)
  | .vor t1 t0 p t => some (32, 117 + 256 * t.code + 4096 * p.code + 16384 * t0.toNat + 4194304 * t1.toNat)
  | .vor_F16 t0 st => some (16, 14 + 32 * st.code + 256 * t0.toNat)
  | .vxor t1 t0 p t => some (32, 119 + 256 * t.code + 4096 * p.code + 16384 * t0.toNat + 4194304 * t1.toNat)
  | .vxor_F16 t0 st => some (16, 16 + 32 * st.code + 256 * t0.toNat)
  | .vshl x t1 t0 p t => some (32, 121 + 256 * t.code + 4096 * p.code + 16384 * t0.toNat + 4194304 * t1.toNat + 1073741824 * x.code)
  | .vshl_F16 t0 st => some (16, 18 + 32 * st.code + 256 * t0.toNat)
  | .vshr t1 t0 p t => some (32, 123 + 256 * t.code + 4096 * p.code + 16384 * t0.toNat + 4194304 * t1.toNat)
  | .vshr_F16 t0 st => some (16, 20 + 32 * st.code + 256 * t0.toNat)
  | .vaddi imm t0 p t => some (32, 125 + 256 * t.code + 4096 * p.code + 16384 * t0.toNat + 4194304 * imm.toNat)
  | .vdot x t1 t0 p t => some (32, 127 + 256 * t.code + 4096 * p.code + 16384 * t0.toNat + 4194304 * t1.toNat + 1073741824 * x.code)
  | .vdot_F16 t0 st => some (16, 30 + 32 * st.code + 256 * t0.toNat)
  | .vdiv x t1 t0 p => some (32, 1665 + 4096 * p.code + 16384 * t0.toNat + 4194304 * t1.toNat + 1073741824 * x.code)
  | .vsqrt x t1 t0 p => some (32, 1667 + 4096 * p.code + 16384 * t0.toNat + 4194304 * t1.toNat + 1073741824 * x.code)
  | .vrcp t1 t0 p => some (32, 1669 + 4096 * p.code + 16384 * t0.toNat + 4194304 * t1.toNat)
  | .vrsq t1 t0 p => some (32, 1671 + 4096 * p.code + 16384 * t0.toNat + 4194304 * t1.toNat)
  | .vexp2 t1 t0 p => some (32, 1673 + 4096 * p.code + 16384 * t0.toNat + 4194304 * t1.toNat)
  | .vlog2 t1 t0 p => some (32, 1675 + 4096 * p.code + 16384 * t0.toNat + 4194304 * t1.toNat)
  | .vcvt mode src t0 p t => some (32, 145 + 256 * t.code + 4096 * p.code + 16384 * t0.toNat + 4194304 * src.code + 1073741824 * mode.toNat)
  | .vcvts x t1 t0 p t => some (32, 147 + 256 * t.code + 4096 * p.code + 16384 * t0.toNat + 4194304 * t1.toNat + 1073741824 * x.code)
  | .vpack x t1 t0 p t => some (32, 149 + 256 * t.code + 4096 * p.code + 16384 * t0.toNat + 4194304 * t1.toNat + 1073741824 * x.code)
  | .vunpk t1 t0 p t => some (32, 151 + 256 * t.code + 4096 * p.code + 16384 * t0.toNat + 4194304 * t1.toNat)
  | .vrnd imm t0 p t => some (32, 153 + 256 * t.code + 4096 * p.code + 16384 * t0.toNat + 4194304 * imm.toNat)
  | .vrand t1 t0 p t => some (32, 157 + 256 * t.code + 4096 * p.code + 16384 * t0.toNat + 4194304 * t1.toNat)
  | .vbce imm t0 p t => some (32, 161 + 256 * t.code + 4096 * p.code + 16384 * t0.toNat + 4194304 * imm.toNat)
  | .vshuf t1 t0 p t => some (32, 163 + 256 * t.code + 4096 * p.code + 16384 * t0.toNat + 4194304 * t1.toNat)
  | .vred imm t0 p t => some (32, 165 + 256 * t.code + 4096 * p.code + 16384 * t0.toNat + 4194304 * imm.toNat)
  | .vscan imm t0 p t => some (32, 167 + 256 * t.code + 4096 * p.code + 16384 * t0.toNat + 4194304 * imm.toNat)
  | .vins t1 t0 p t => some (32, 171 + 256 * t.code + 4096 * p.code + 16384 * t0.toNat + 4194304 * t1.toNat)
  | .vext t1 t0 p t => some (32, 173 + 256 * t.code + 4096 * p.code + 16384 * t0.toNat + 4194304 * t1.toNat)
  | .vcmpr t1 t0 p u => some (32, 175 + 256 * u.toNat + 4096 * p.code + 16384 * t0.toNat + 4194304 * t1.toNat)
  | .ldv lsid imm t0 p => some (32, 177 + 4096 * p.code + 16384 * t0.toNat + 4194304 * imm.toNat + 268435456 * lsid.toNat)
  | .stv lsid imm p => some (32, 179 + 4096 * p.code + 16384 * imm.toNat + 268435456 * lsid.toNat)
  | .lds lsid imm t0 p t => some (32, 181 + 256 * t.code + 4096 * p.code + 16384 * t0.toNat + 4194304 * imm.toNat + 268435456 * lsid.toNat)
  | .sts lsid imm p t => some (32, 183 + 256 * t.code + 4096 * p.code + 16384 * imm.toNat + 268435456 * lsid.toNat)
  | .ldgv lsid imm t0 p t => some (32, 185 + 256 * t.code + 4096 * p.code + 16384 * t0.toNat + 4194304 * imm.toNat + 268435456 * lsid.toNat)
  | .stsv lsid imm p t => some (32, 187 + 256 * t.code + 4096 * p.code + 16384 * imm.toNat + 268435456 * lsid.toNat)
  | .ldvs lsid imm t0 p t => some (32, 189 + 256 * t.code + 4096 * p.code + 16384 * t0.toNat + 4194304 * imm.toNat + 268435456 * lsid.toNat)
  | .stvs lsid imm p t => some (32, 191 + 256 * t.code + 4096 * p.code + 16384 * imm.toNat + 268435456 * lsid.toNat)
  | .aop lsid fn t0 p t => some (32, 193 + 256 * t.code + 4096 * p.code + 16384 * t0.toNat + 4194304 * fn.toNat + 268435456 * lsid.toNat)
  | .acas lsid t0 p t => some (32, 195 + 256 * t.code + 4096 * p.code + 16384 * t0.toNat + 268435456 * lsid.toNat)
  | .binit lsid sstep p => some (32, 197 + 4096 * p.code + 16384 * sstep.toNat + 268435456 * lsid.toNat)
  | .barv lsid p => some (32, 199 + 4096 * p.code + 268435456 * lsid.toNat)
  | .bexp lsid arr p => some (32, 201 + 4096 * p.code + 16384 * arr.toNat + 268435456 * lsid.toNat)
  | .bph lsid t0 p => some (32, 203 + 4096 * p.code + 16384 * t0.toNat + 268435456 * lsid.toNat)
  | .drain lsid p => some (32, 205 + 4096 * p.code + 268435456 * lsid.toNat)
  | .evsig lsid evop p => some (32, 207 + 4096 * p.code + 16384 * evop.toNat + 268435456 * lsid.toNat)
  | .hget lsid dl rsc asc rel acq p => some (32, 209 + 4096 * p.code + 16384 * acq.toNat + 32768 * rel.toNat + 65536 * asc.toNat + 524288 * rsc.toNat + 4194304 * dl.toNat + 268435456 * lsid.toNat)
  | .hsnd lsid dl rsc asc rel acq p => some (32, 211 + 4096 * p.code + 16384 * acq.toNat + 32768 * rel.toNat + 65536 * asc.toNat + 524288 * rsc.toNat + 4194304 * dl.toNat + 268435456 * lsid.toNat)
  | .hgath lsid dl rsc asc rel acq p t => some (32, 213 + 256 * t.code + 4096 * p.code + 16384 * acq.toNat + 32768 * rel.toNat + 65536 * asc.toNat + 524288 * rsc.toNat + 4194304 * dl.toNat + 268435456 * lsid.toNat)
  | .hscat lsid dl rsc asc rel acq p t => some (32, 215 + 256 * t.code + 4096 * p.code + 16384 * acq.toNat + 32768 * rel.toNat + 65536 * asc.toNat + 524288 * rsc.toNat + 4194304 * dl.toNat + 268435456 * lsid.toNat)
  | .hsadd lsid dl rsc asc rel acq p t => some (32, 217 + 256 * t.code + 4096 * p.code + 16384 * acq.toNat + 32768 * rel.toNat + 65536 * asc.toNat + 524288 * rsc.toNat + 4194304 * dl.toNat + 268435456 * lsid.toNat)
  | .hpfch lsid dl p => some (32, 219 + 4096 * p.code + 4194304 * dl.toNat + 268435456 * lsid.toNat)
  | .qpush lsid t0 p => some (32, 223 + 4096 * p.code + 16384 * t0.toNat + 268435456 * lsid.toNat)
  | .qpop lsid t0 p => some (32, 479 + 4096 * p.code + 16384 * t0.toNat + 268435456 * lsid.toNat)
  | .qstop lsid t0 p => some (32, 735 + 4096 * p.code + 16384 * t0.toNat + 268435456 * lsid.toNat)
  | .tidset lsid entry p => some (32, 225 + 4096 * p.code + 16384 * entry.toNat + 268435456 * lsid.toNat)
  | .mxmul lsid ovr p => some (32, 227 + 4096 * p.code + 16384 * ovr.toNat + 268435456 * lsid.toNat)
  | .mxdrn lsid sat p => some (32, 229 + 4096 * p.code + 16384 * sat.toNat + 268435456 * lsid.toNat)
  | .mxz lsid p => some (32, 231 + 4096 * p.code + 268435456 * lsid.toNat)
  | .plpin lsid p => some (32, 233 + 4096 * p.code + 268435456 * lsid.toNat)
  | .plunp lsid p => some (32, 489 + 4096 * p.code + 268435456 * lsid.toNat)
  | .pldlt lsid p => some (32, 235 + 4096 * p.code + 268435456 * lsid.toNat)
  | .plrd lsid p => some (32, 237 + 4096 * p.code + 268435456 * lsid.toNat)
  | .plspl lsid scope sync mem lossy p => some (32, 239 + 4096 * p.code + 16384 * lossy.toNat + 32768 * mem.toNat + 65536 * sync.toNat + 131072 * scope.toNat + 268435456 * lsid.toNat)
  | .plfil lsid scope sync mem p => some (32, 495 + 4096 * p.code + 32768 * mem.toNat + 65536 * sync.toNat + 131072 * scope.toNat + 268435456 * lsid.toNat)
  | .vdecl lsid slot p => some (32, 241 + 4096 * p.code + 16384 * slot.toNat + 268435456 * lsid.toNat)
  | .fork lsid wait p => some (32, 243 + 4096 * p.code + 16384 * wait.toNat + 268435456 * lsid.toNat)
  | .fence lsid scope p => some (32, 247 + 4096 * p.code + 16384 * scope.toNat + 268435456 * lsid.toNat)
  | .ctlrd lsid t0 p => some (32, 249 + 4096 * p.code + 16384 * t0.toNat + 268435456 * lsid.toNat)
  | .ctlwr lsid p => some (32, 251 + 4096 * p.code + 268435456 * lsid.toNat)
  | .sysc lsid imm t0 p => some (32, 253 + 4096 * p.code + 16384 * t0.toNat + 4194304 * imm.toNat + 268435456 * lsid.toNat)
  | .activation _ _ => none
  | .headerRead _ _ _ => none
  | .blockCommit _ _ => none
  | .rowCloseComplete _ _ => none
  | .quantumEnd _ _ => none
  | .rowAged _ _ => none
  | .blockStall _ _ => none
  | .forcedClose _ _ => none
  | .preciseTrap _ _ => none
  | .asyncCondition _ => none
  | .acknowledgement _ => none
  | .waitWake _ _ => none
  | .remoteStoreArrival _ => none
  | .remoteAtomicArrival _ => none
  | .runreq _ _ => none
  | .stopreq _ _ => none
  | .redir _ _ => none
  | .qnotify _ _ _ => none
  | .queueMapPending => none
  | .qcancel _ _ _ => none
  | .selectionRound => none
  | .gangDispatch => none
  | .grelease _ _ => none
  | .gangEnd _ => none
  | .tstopStop _ => none
  | .tstopResume _ => none
  | .stopCycle _ => none
  | .stopDeadline _ => none
  | .coreQuiescent _ => none
  | .contextSave _ => none
  | .stopAbandon => none
  | .resumeTime => none
  | .chunkStart _ _ => none
  | .chunkComplete _ _ => none
  | .walkStart _ => none
  | .walkComplete _ => none
  | .pageRequestRecord _ => none
  | .prresp _ _ _ => none
  | .tlbinv _ _ _ => none
  | .tlbinvDone => none
  | .hbmAdmit _ => none
  | .hbmServe _ => none
  | .deadlineUrgent _ => none
  | .refmarkNotLive _ _ => none
  | .refmarkLive _ _ => none
  | .zeroFillComplete _ => none
  | .patrolScrub _ => none
  | .neighbourRefresh _ _ _ => none
  | .hbmRowRemap _ _ _ => none
  | .leaseRevoke _ => none
  | .leaseDeadline _ => none
  | .exportDeadline _ => none
  | .fabricIngress _ => none
  | .fabricTimeout _ => none
  | .flitReplay _ => none
  | .portRetrain _ _ => none
  | .hostReadCompletion _ _ => none
  | .hostReadTimeout _ => none
  | .barrierArrival _ => none
  | .flipBroadcast _ => none
  | .stepStartNotice _ => none
  | .drainArrivalSend _ => none
  | .superstepArrivalSend _ => none
  | .eventSignal _ => none
  | .eventWindowStore _ => none
  | .queueOpPerform _ _ _ => none
  | .opaCommandAccept _ => none
  | .opaCommandStart _ _ => none
  | .opaGroupFinal _ _ => none
  | .opaCommandComplete _ _ => none
  | .drainGroupWrite _ _ => none
  | .windowStorePerform _ _ => none
  | .windowLoadServe _ _ _ => none
  | .forkClaim _ _ => none
  | .forkSearchComplete _ _ _ => none
  | .taskStart _ => none
  | .claimRelease _ => none
  | .mergeStep _ => none
  | .pairMismatch _ => none
  | .pairTimeout _ => none
  | .rollback _ => none
  | .scdone _ _ => none
  | .capmint _ => none
  | .keyGenerate _ _ => none
  | .keyDestroy _ => none
  | .keyErase _ => none
  | .parttabWrite _ _ => none
  | .quarantine _ => none
  | .quarantineComplete => none
  | .repairCommit => none
  | .repairDiscard => none
  | .coreDisable _ => none
  | .moduleReset => none
  | .bootctl _ => none
  | .d3hotEntry => none
  | .d0Entry => none
  | .lockInterface _ => none
  | .startInterface _ => none
  | .stopInterface _ => none
  | .getDeviceInterfaceReport _ => none
  | .getDeviceInterfaceState _ => none
  | .tdiError _ => none
  | .getVersion _ => none
  | .getCapabilities _ => none
  | .negotiateAlgorithms _ _ => none
  | .getDigests _ => none
  | .getCertificate _ _ _ _ => none
  | .challenge _ _ => none
  | .getMeasurements _ _ _ => none
  | .keyExchange _ => none
  | .finish _ _ => none
  | .heartbeat _ _ => none
  | .keyUpdate _ _ => none
  | .endSession _ => none
  | .heartbeatTimeout _ => none
  | .relayTimeout _ => none
  | .ideKm _ _ => none
  | .registerWrite _ _ _ _ => none
  | .lpddrServe _ => none
  | .arithmeticClockStep _ => none
  | .hostLinkTraining _ _ => none
  | .remapCopyComplete _ _ _ => none

/-- The bytes of a word, `n` of them, little-endian (R7). -/
def leBytes : Nat → Nat → List Byte
  | 0, _ => []
  | n + 1, w => BitVec.ofNat 8 w :: leBytes n (w / 256)

/-- The instruction the decoder reads where the words of `w` are laid out as the hardware stores them, the bits above
`nbits` zero, up to the longest instruction of 32 bits. -/
def decodeTableWord (nbits w : Nat) : Option Instr :=
  match decode (leBytes 4 (w % 2 ^ nbits)) with
  | .ok (i, _) => some i
  | .error _ => none

end Sys2Proof
end

