-- ==== Sys2Proof/Machine/State.lean ====
section
/-!
DEFINITION. The state of the machine as plain data: every piece of state the spec gives a Plynast 9 module, the reasons a
step can stop, and the state after reset. INVENTORY.md names the rule of each field.

All byte-addressed storage is one memory `mem`, a list of (address, byte) in canonical form (Memory.wf in Ops.lean). Its
address space is the concatenation of the spec's spaces, placed by `Space` below: the local space of every core (R108),
the event lines of every cluster (R286), the register space of every function (R305, R306) and the 52-bit physical space (R118).
-/

namespace Sys2Proof.Machine

/-- Where the spec's address spaces lie in the keys of `mem`. -/
def Space.loc (core addr : Nat) : Nat := core * 2 ^ 32 + addr
/-- Byte `off` of the event unit window of a cluster (R286). -/
def Space.event (cluster off : Nat) : Nat := 2 ^ 40 + cluster * 4096 + off
/-- Byte `off` of the BAR0 of function `f` (R305, R306). -/
def Space.bar (f off : Nat) : Nat := 2 ^ 41 + f * 2 ^ 20 + off
/-- The memory of a remote device that leases reach (R136), by device and address. -/
def Space.lease (rdev addr : Nat) : Nat := 2 ^ 64 + rdev * 2 ^ 52 + addr
/-- Physical address `pa` (R118). -/
def Space.phys (pa : Nat) : Nat := 2 ^ 52 + pa

/-- Key of the first byte of the boot bundle of the flash, as the ROM leaves it in the LPDDR node (R23, R325; log 101). -/
def bundleKey : Nat := Space.phys (2 ^ 40 + Config.bundleAt % 2 ^ 33)

/-- What an unlisted address of `mem` reads as: 0 (log 1), but for the watermarks of the ownership tables, whose reset
value is 128 (R257), and for the boot bundle of the flash, which start-up has loaded into the LPDDR node (R23, R325). -/
def unlisted (a : Nat) : Byte :=
  if a < 2 ^ 40 ∧ a % 2 ^ 32 / 128 = 0x01301000 / 128 ∧ a % 32 = 2 then 128
  else if 2 ^ 52 + 2 ^ 40 ≤ a ∧ a < 2 ^ 52 + 2 ^ 40 + 2 ^ 36 ∧ bundleKey ≤ a then (Config.bundle.take (2 ^ 33)).getD (a - bundleKey) 0
  else 0

/-- A lane of a vector token: null, or a word with its poison mark (R188, R373). -/
abbrev Lane := Option (Word32 × Bool)

/-- A token (R188): 32 lanes, or a scalar, null or with its poison mark. -/
inductive Token where
  | vec (lanes : List Lane)
  | sca (v : Option (Word64 × Bool))
  deriving DecidableEq, Repr

/-- The five flags of FPCTL (R55, R170). -/
structure Flags where
  nv : Bool := false
  dz : Bool := false
  ov : Bool := false
  uf : Bool := false
  nx : Bool := false
  deriving DecidableEq, Repr

/-- A byte on its way to an address, with its poison mark. -/
structure PByte where
  addr : Nat
  byte : Byte
  poison : Bool
  exact : Bool := false        -- a poisoned word of a spill, whose data bits the check of the spill covers (R270, R373; log 133)
  deriving DecidableEq, Repr

/-- The asynchronous condition of an access (R343, R344). -/
structure Cond where
  code : Nat
  lsid : Nat
  acore : Nat
  ainfo : Nat
  isExit : Bool
  more : Bool := false     -- a further fault of the same chunk: it only sets AMORE (R380, R408)
  deriving DecidableEq, Repr

/-- Who dispatched an access: its row, gang and LSID, for acknowledgements and conditions. -/
structure Origin where
  core : Nat
  rid : Nat
  lsid : Nat
  isExit : Bool
  gang : Nat
  func : Nat
  seq : Nat         -- place in the row's dispatch order (R139)
  group : Nat := 0  -- of the messages of one instruction instance: the first one's place (R377); 0 where it is one message
  twin : Option (Nat × Nat × Nat) := none  -- core, row and place of the other copy's access that this one performs too (R363)
  copy : Bool := false  -- of a message from outside to a paired gang, the one that goes to the second copy's core (R363)
  deriving DecidableEq, Repr

/-- An atomic read-modify-write (R277, R279, R292). -/
structure AtomicOp where
  cas : Bool
  fn : Nat
  ty : LaneType
  addr : Nat
  b : Nat
  c : Nat
  poison : Bool
  deriving DecidableEq, Repr

/-- A matrix or plate command, or a window store, as its message carries it (R254, R111). -/
structure OpaCmd where
  op : Nat               -- 0x71 to 0x77, or 0 for a window store
  fill : Bool            -- T: 1 of PLUNP and PLFIL
  imm : Nat              -- IMM14
  cap : Nat
  b : Nat
  c : Nat
  images : List (List Byte)  -- the identifier images that slot B names, lowest field first
  bytes : List PByte     -- data of a window store
  poisoned : Bool        -- a poisoned capability or image (R375)
  tenant : Nat
  entry : Option Nat     -- the Halyard entry of a spill or fill to memory
  deriving DecidableEq, Repr

/-- What a message of the mesh carries. -/
inductive Payload where
  /-- a remote or control-field store (R276) of an address and size, or Halyard data for a peer core (`halyard` names the
  access) -/
  | store (addr size : Nat) (bytes : List PByte) (halyard : Option Nat)
  /-- a remote atomic (R279), or an add of HSADD (R292) -/
  | atomic (op : AtomicOp) (halyard : Option Nat)
  /-- arrivals and bytes for a barrier object (R280); `expect` is added to EXPB first (BEXP) -/
  | arrive (addr arrivals bytes expect : Nat)
  /-- the broadcast of a flip of the object of a core (R281) -/
  | flip (core addr : Nat)
  /-- a signal to an event line (R288) -/
  | signal (cluster line op : Nat)
  /-- a store to an event line's window (R286) -/
  | lineStore (cluster off : Nat) (bytes : List PByte)
  /-- a command or window store for the OPA of the destination (R254) -/
  | opa (cmd : OpaCmd)
  /-- the start message of a claimed row (R216) -/
  | start (rid lo n task tasks jcore jcell entry : Nat)
  /-- the release message of a claimed row (R216) -/
  | release (rid : Nat)
  /-- a merge chain (R299): the join cell, the task that started it, and the depth of the node it has reached -/
  | merge (jcore jcell task depth : Nat)
  /-- an acknowledgement, with the condition it carries, if any (R143, R344) -/
  | ack (cond : Option Cond) (counted : Bool)
  /-- a condition without an acknowledgement -/
  | cond (c : Cond)
  /-- the write data of a chunk of a paired gang, on its own core until its partner agrees (R363) -/
  | chunk (entry : Nat)
  /-- a system-call posting of a paired gang, until its partner agrees (R363) -/
  | post (index svc arg0 arg1 reply rbar : Nat)
  deriving DecidableEq, Repr

/-- Which message of which row of a copy of a paired gang it is (R363). -/
structure PairTag where
  gang : Nat
  grow : Nat
  n : Nat
  copyB : Bool
  deriving DecidableEq, Repr

/-- A message in flight, in dispatch order. -/
structure Msg where
  src : Nat
  dst : Nat
  org : Origin
  pay : Payload
  held : Bool := false       -- waits for a step-start notice (R366), an acknowledgement (R283, R285) or a fence (R147)
  waits : Nat := 0           -- dispatch number below which everything of the row must be acknowledged first
  since : Nat := 0           -- cycle of dispatch (R364)
  pair : Option PairTag := none  -- waits for its partner (R363)
  deriving DecidableEq, Repr

/-- An effect of an instruction that waits for its block's commit (R71, R195). -/
inductive Effect where
  | store (bytes : List PByte)                        -- local SRAM and instruction store, absolute local addresses
  | remote (core addr size : Nat) (bytes : List PByte)
  | remoteAtomic (core : Nat) (op : AtomicOp)
  | window (core addr : Nat) (bytes : List PByte)     -- operand or accumulator window store
  | lineStore (off : Nat) (bytes : List PByte)
  | binit (addr expa pcore paddr : Nat) (sstep : Bool)
  | arrive (core addr arrivals expect : Nat) (isRemote isDrain : Bool)
  | signal (cluster line op : Nat)
  | tidset (entry : Nat) (image : List Byte)
  | vdecl (slot : Nat) (image : List Byte) (entry : Option Nat)
  | halyard (entry : Nat)
  | opa (cmd : OpaCmd)
  | fork (target : Nat × Nat) (entry s0 s1 : Nat) (cell : Nat) (wait : Bool)
  | fence (scope : Nat)
  | ctlwr (reg index value : Nat)
  | sysc (index svc arg0 arg1 reply rbar : Nat)
  deriving DecidableEq, Repr

/-- A check that an instance has raised (R337 to R343). -/
structure Check where
  code : Nat
  tvalid : Bool
  tidx : Nat
  twe : Bool
  cycle : Nat          -- of the check
  commit : Bool        -- of the commit class (R337)
  deriving DecidableEq, Repr

/-- A taken exit (R204), with what it needs at the boundary. -/
inductive ExitKind where
  | br | brx | call | loop | endl | brkl | waitb | waite | waitqr | waitqd | yield | halt | trap (n : Nat) | efence | splice | forkr
  deriving DecidableEq, Repr

structure Exit where
  kind : ExitKind
  index : Nat
  target : Nat
  a : Nat
  b : Nat
  c : Nat
  due : Nat                    -- the last cycle of its latency
  tasks : List (Nat × Nat)     -- rows claimed by FORKR (core, rid), in recruitment order
  cell : Nat                   -- its join cell
  wait : Option (Nat × Nat × Nat) := none  -- WAITK, WAITOBJ and WPH of a wait whose condition was unmet in the commit's last cycle (R209)
  deriving DecidableEq, Repr

/-- A token on its way to, or at, a target of the instance (R186, R188). -/
structure Tok where
  dest : Nat
  val : Token
  due : Nat
  from? : Nat        -- producing instruction, or 64 + entry for a header read
  deriving DecidableEq, Repr

/-- An instruction that has fired and waits: for lower LSIDs, a bank unit, a queue, a watermark or a search. -/
inductive Wait where
  | load (i : Instr) (a b : Token) (pred : Option Token)
  | atomic (op : AtomicOp)
  | order (core : Nat) (op : AtomicOp)                -- a remote atomic whose AtomicOrder check is still to come (R278)
  | queue (fn addr : Nat) (data : Token) (pred : Option Token) (ticket : Option Nat)  -- its place at the bank unit (R290)
  | search (want : Nat) (found : List (Nat × Nat)) (since : Nat)
  | window (i : Instr) (a b : Token) (pred : Option Token)
  | tidset (entry addr : Nat) (due : Option Nat)
  deriving DecidableEq, Repr

/-- A block instance, or a pass of a REP block (R187 to R195). -/
structure Inst where
  pc : Nat
  header : List Nat            -- the four 64-bit words
  ins : List Nat               -- the raw words of the body, in index order (R182)
  pass : Nat
  start : Nat                  -- first cycle in which its header reads may be served
  rm : Nat
  key : Nat
  cseed : Nat
  reads : List Nat             -- read entries not served yet
  toks : List Tok
  fired : List (Nat × Nat)     -- instruction index and cycle of firing
  waits : List (Nat × Wait)    -- instruction index and what it waits for
  effects : List (Nat × Nat × Effect)  -- LSID, instruction index, effect
  exit : Option Exit
  flags : Flags
  atomicDone : Bool            -- an atomic or queue operation has been performed (R66)
  failed : Option Check
  busy : List (Nat × Nat)      -- instruction index, and the last cycle in which it is in flight by its latency (R338)
  drained : Bool               -- an earlier pass has taken a DRAIN (R345)
  deriving DecidableEq, Repr

/-- Where an open row stands (R65, R71, R72, R338). -/
inductive Phase where
  | opening (start : Nat)      -- first cycle of the opening
  | running
  | commit (last : Nat)        -- last cycle of the commit
  | boundary (at' : Nat)       -- cycle of the boundary
  | trap (at' : Nat)           -- cycle of the trap boundary
  | closing (last : Nat)       -- last cycle of the closing
  deriving DecidableEq, Repr

/-- An open slot of a bank (R64). -/
structure Slot where
  core : Nat
  rid : Nat
  openedAt : Nat
  boundaries : Nat             -- boundaries of its quantum (R99)
  mark : Option Nat            -- marked for rotation by the aged row of this ROWID (R100)
  phase : Phase
  inst : Inst
  next : Option Inst           -- the block fetched during the last commit (R72, R113)
  deriving DecidableEq, Repr

/-- What follows once the bytes of a store, or an atomic, are performed (R74, R124, R261, R344). -/
inductive Fin where
  /-- a remote access, acknowledged when it was accepted: a condition goes back to its row -/
  | remote
  /-- a store of the core itself, a commit's or the device's: it takes none of the entries of the inbound buffer -/
  | own
  /-- a part of an access of a Halyard command -/
  | acc (id : Nat)
  /-- a part of a group of a drain command, by its queue entry -/
  | drain (seq group : Nat)
  /-- the reply of a system call, followed by one arrival at a barrier object (R302) -/
  | call (rbar : Nat)
  deriving DecidableEq, Repr

/-- An access, request or condition held for a row (R63, R74, R344). -/
inductive Held where
  | store (org : Origin) (bytes : List PByte) (fin : Fin)
  | atomic (org : Origin) (op : AtomicOp) (fin : Fin)
  | request (run stop redir : Bool)
  | cond (c : Cond)
  | bins (org : Origin) (seq group : Nat) (ops : List AtomicOp) -- the counts that a tile row of a drain adds to its histogram (R265)
  deriving DecidableEq, Repr

/-- A redirection of a declared tile to a task's data area (R298). -/
structure Redir where
  base : Nat
  size : Nat
  data : Nat
  deriving DecidableEq, Repr

/-- What a core holds for an allocated row outside its memory. -/
structure RowSt where
  gang : Nat
  ready : Nat                  -- ready time (R97)
  aged : Bool
  outst : Nat                  -- outstanding count (R143)
  nextSeq : Nat                -- next dispatch number of the row (R139)
  pending : List Nat           -- dispatch numbers not acknowledged yet
  trapBit : Bool               -- the last boundary was a trap boundary (R342)
  held : List Held             -- in arrival order (R74)
  claim : Option (Nat × Nat)   -- claimed by the parent of this core and row (R216)
  early : Nat                  -- what is held from before the claim, in a closing row (R216)
  rep : Nat                    -- committed passes of a REP block closed by force (R61)
  redir : List Redir           -- redirections of its views (R298)
  view : Nat                   -- its view instance's address, 0 none
  fences : List (Nat × Nat)    -- fences in force: dispatch number, scope (R147)
  wake : Bool                  -- its wait condition has held (R209)
  pairSeq : Nat                -- messages of a paired gang's row so far (R363)
  arrived : List Nat           -- dispatch numbers reached at superstep arrivals whose step-start notice has not come (R366)
  tagged : List Nat            -- groups of messages that have raised their condition 0x0805 (R377)
  deriving DecidableEq, Repr

/-- A Halyard queue entry (R126) and its progress (R122, R123). -/
structure HEntry where
  kind : Nat                   -- 0 free
  acq : Bool
  rel : Bool
  dl : Bool
  rsv : Bool                   -- reserved by an uncommitted block
  unstarted : Bool             -- a plate transfer that the array has not started yet (R269)
  ascope : Nat
  rscope : Nat
  etype : Nat
  len : Nat
  src : Nat
  dst : Nat
  rbar : Nat
  sbar : Nat
  prog : Nat
  aux : Nat
  org : Origin
  opa : Option Nat             -- it carries the OPA command of this sequence number (R269)
  order : Nat                  -- dispatch order of the core's queue
  inFlight : Bool              -- one of the 8 commands in flight
  chunk : Bool                 -- a chunk is in flight
  deadline : Nat               -- D of the chunk's requests (R130)
  counted : List (Nat × Nat)   -- bytes performed of the chunk in flight, at each receiving core
  conds : List Nat             -- condition codes met in the chunk (R380)
  late : List Cond             -- conditions that go with the command's acknowledgement (R344)
  used : List (Nat × Nat)      -- pages that the chunk's accesses were translated through: base, size (R312)
  stopped : Bool               -- stops at its chunk's end (R96, R103)
  await : Bool                 -- copy B's chunk of a matched pair, which copy A performs for both (R363)
  pairEntry : Option (Nat × Nat) -- core and entry of the other copy's command, while a matched chunk is performed for both (R363)
  deriving DecidableEq, Repr

/-- Where an access to global memory stands. -/
inductive AccState where
  | queued                            -- not presented for translation yet (R404)
  | miss                              -- waits for a walk (R311)
  | walk                              -- a walk is outstanding
  | walkLost                          -- a walk whose table read an injection keeps unanswered (R394)
  | page (tag : Option Nat)           -- waits for a page request record, then for its reply (R313)
  | ready                             -- translated, waits for its order rules (R144 to R148)
  | admission (stack : Nat)           -- in the tenant's admission queue (R131)
  | bank (stack bank : Nat)           -- in an HBM bank queue (R132)
  | lpddr                             -- at the LPDDR node (R135)
  | host (lost : Bool)                -- a read of host memory (R383), its response kept away by an injection (R394)
  | fabric (port : Nat) (resent : Bool)  -- outstanding on a fabric port (R386)
  | portWait (resent : Bool)          -- waits for a fabric port that retrains (R387)
  | fill (region : Nat)               -- waits for a zero fill (R134) or a remap copy (R390)
  | mesh                              -- on its way to a peer core
  | land (data : List (Byte × Bool))  -- a read whose data waits for room, or for a release (R74, R146)
  | placing                           -- parts of it are held for rows at the receiving core (R74)
  deriving DecidableEq, Repr

/-- One access of a chunk: a 64-byte beat, or an element (R123, R314). -/
structure Acc where
  id : Nat
  core : Nat
  entry : Nat
  func : Nat
  elem : Nat                   -- element index, or chunk number
  va : Nat
  size : Nat
  write : Bool
  loc : Nat                    -- local address at the issuing core
  pa : Nat
  key : Nat
  ord : Nat
  cached : Bool                -- the G attribute
  gtp : Bool
  state : AccState
  since : Nat                  -- cycle, for a host or fabric request the time, in which it entered its state
  urgent : Bool                -- R130
  deadline : Option Nat
  inval : Bool                 -- its walk was in progress at an invalidation (R312)
  absent : Nat                 -- level of the entry with V = 0 at which its walk ended (R380)
  turn : Nat × Nat             -- the walk it waits for, in the order of its cluster's walks, and its place among the misses (R404)
  lead : Bool                  -- the first read of its command (R146)
  last : Bool                  -- the last write of its command (R146)
  old : Bool                   -- admitted before its region was marked not live (R134)
  gone : Bool                  -- and the region has been filled with zeros since: `data` is what a read returns (R134)
  slack : Nat                  -- cycles by which its bank's bound has been extended since its admission (R132, R378)
  target : Nat                 -- the core that receives its bytes
  unread : Bool                -- its beat of the local source has not been read yet (R123, R141)
  data : List (Byte × Bool)    -- what has been read for it
  bad : Option Nat             -- local address of its first poisoned byte (R375)
  epoch : Nat                  -- epoch of its cluster's get-cache when the first half of its line came through a lease (R128)
  left : Nat                   -- parts held for rows
  got : Nat                    -- bytes performed so far
  deriving DecidableEq, Repr

/-- A cached translation (R309, R311). -/
structure Xlat where
  func : Nat
  va : Nat                     -- base of the page
  size : Nat
  entry : Nat                  -- the page table entry
  pa : Nat                     -- base of the page
  deriving DecidableEq, Repr

/-- A line of a get-cache (R127, R128). -/
structure CacheLine where
  pa : Nat
  key : Nat                    -- under which it was deciphered
  epoch : Nat
  data : List Byte
  prefetched : Bool
  used : Bool
  deriving DecidableEq, Repr

/-- A command of an OPA's queue (R254, R260). -/
structure OpaEntry where
  seq : Nat
  org : Origin
  cmd : OpaCmd
  tile : Nat
  accepted : Nat               -- cycle of acceptance
  started : Option Nat
  done : Nat                   -- groups, tile rows or k steps done
  verified : Option Nat        -- the cycle after verification of a fill (R260)
  failed : Bool                -- a fill that fails SpillCheck there (R269)
  src : List Byte              -- operands read in full: a spill, TQ of PLRD or the scales of MXDRN
  srcMarks : List Nat          -- offsets in `src` of poisoned bytes (R373)
  work : List Nat              -- results waiting to become final (u and w of PLDLT, and the like)
  marks : List Nat             -- elements of `work` that are poisoned (R373)
  begun : List Nat             -- cycles in which a drain began to read its groups (R260)
  row : Nat                    -- tile rows that a drain has written
  parts : List (Nat × Nat × Nat) -- groups of a drain not counted yet: group, parts outstanding, bytes performed (R261)
  told : List (Nat × Nat)      -- conditions of a drain that have been reported: group, code (R355)
  deriving DecidableEq, Repr

/-- One entry of a trace ring (R154). -/
structure TraceEntry where
  time : Nat
  src : Nat
  kind : Nat
  held : Bool
  size : Nat
  addr : Nat
  deriving DecidableEq, Repr

/-- What a core holds beside its memory. -/
structure CoreSt where
  bconf : List Nat             -- BCONF of the 8 banks (R70)
  hyctl : Nat                  -- DLB (R129)
  trEn : Bool                  -- TRCTL (R154)
  trWrap : Bool
  trNext : Nat
  trace : List (Nat × TraceEntry)
  special : List Nat           -- first cycle in which each bank may issue a special function again (R68, R230)
  halyard : List (Nat × HEntry) -- the queue entries that are not free, by index (R126)
  hOrder : Nat
  opa : List OpaEntry          -- in arbiter order
  opaSeq : Nat                 -- next sequence number (R257)
  clears : List (Nat × Nat)    -- tiles being cleared and the cycle it started (R258)
  cdone : List Nat             -- barrier objects with CDONE = 1 (R281)
  armed : List Nat             -- barrier objects with ARMED = 1 (R280, R282)
  pool : List (Nat × Nat)      -- allocated pieces of the view pool
  viewRsv : List Nat           -- view table entries reserved by VDECL (R296)
  tlb : List Xlat              -- the Halyard TLB (R125)
  stopping : Option Nat        -- its stop cycle in a tenant stop (R103)
  quiet : Bool                 -- it has reported quiescent (R104)
  disabled : Bool              -- R391
  sentUp : List (Nat × Nat)    -- arrivals of each completed object at its parent, in a paired gang (R363)
  tickets : Nat                -- queue operations that have reached the bank units (R290)
  beat : Nat                   -- the command whose beat of its source was read last (R123)
  deriving DecidableEq, Repr

/-- What a cluster holds (R127 to R129, R172, R286, R311). -/
structure ClusterSt where
  flagsum : Flags
  recent : Flags               -- flags committed in the cycle `recentAt` (R173)
  recentAt : Nat
  epoch : Nat
  used : Nat
  late : Nat
  unused : Nat
  fills : Nat
  lines : List CacheLine
  tlb : List Xlat              -- the shared TLB
  walkSeq : Nat                -- misses that have reached it (R404)
  deriving DecidableEq, Repr

/-- A page request tag in use (R313). -/
structure PageTag where
  tag : Nat
  va : Nat                     -- 64 KiB region
  level : Nat                  -- of the entry with V = 0 (R380)
  deriving DecidableEq, Repr

/-- An invalidation in progress (R312): what it names, and the chunks and walks it waits for. -/
structure Inval where
  func : Nat
  all : Bool
  va : Nat
  inFlight : List (Nat × Nat × Nat) -- chunks in flight at the request: core, entry, and number of the chunk
  chunks : List (Nat × Nat × Nat)  -- those that have used a translation that it names
  walks : List Nat                 -- accesses whose walks were in progress at the request
  deriving DecidableEq, Repr

/-- A system-call record (R302, R305, R96). -/
structure SysRecord where
  index : Nat
  posted : Bool
  orphan : Bool
  org : Origin
  reply : Nat
  rbar : Nat
  answer : Option Nat          -- SCREPLY of an SCDONE whose store waits for room (R74, R305)
  deriving DecidableEq, Repr

/-- What the device holds for a function beside its register page. -/
structure FuncSt where
  tags : List PageTag
  calls : List SysRecord
  callCount : Nat              -- postings (PSEQ, R302)
  reply : Nat                  -- SCREPLY
  tdi : Nat                    -- TDISP state (R307)
  lockSession : Option Nat     -- the session in which it was locked (R399)
  halted : Bool                -- its context has been stopped and not resumed (R103, R107)
  msix : List Nat              -- vectors raised, oldest first
  deriving DecidableEq, Repr

/-- A hardware slot of Capstan (R79, R80, R352), by its number in `capSlots`. -/
structure CapSlot where
  func : Nat
  qid : Nat
  ring : Nat                   -- RINGVA, SIZE, ENABLE, NOPRE and CLASS as last read from the descriptor
  size : Nat
  enable : Bool
  nopre : Bool
  cls : Nat
  head : Nat
  tail : Nat
  headt : Nat
  prio : Option Nat            -- PRIO of the head record once read (R80)
  skip : Nat                   -- R88; blocking at 16
  skipped : Bool               -- its head has been skipped and waits (R88)
  unusable : Bool              -- reported under R352: no record is selected until a later notify
  mending : Bool               -- that notify has found the descriptor valid: usable once what it owes is written (R352)
  dirty : Bool                 -- its HEAD and TAIL have not been written to the descriptor yet (R352)
  deriving DecidableEq, Repr

/-- What is still to be added to DONE and CANCELS of a descriptor (R96, R352). -/
structure Owed where
  func : Nat
  qid : Nat
  done : Nat
  cancels : Nat
  failed : Bool                -- the write met a fault: retried at a later notify
  deriving DecidableEq, Repr

/-- A stage queue of a gang (R83). -/
structure GangQueue where
  base : Nat
  depth : Nat
  src : Nat
  dst : Nat
  deriving DecidableEq, Repr

/-- A gang in binding or live (R89, R106). -/
structure Gang where
  id : Nat
  func : Nat
  qid : Nat
  index : Nat
  superstep : Bool
  paired : Bool
  pack : Bool
  prio : Nat
  openLimit : Nat
  groups : Nat
  cores : Nat
  gbase : Nat
  rpc : Nat
  first : Nat                  -- first core of the run
  firstB : Nat                 -- first core of copy B
  plates : Nat
  opsram : Nat
  scrbase : Nat
  scrsize : Nat
  vpool : Nat
  qarea : Nat
  queues : List GangQueue
  entries : List Nat           -- ENTRY of each stage
  dispatched : Bool
  released : Bool
  barrier : Option (Nat × Nat) -- its superstep barrier: core, address
  rollbacks : Nat              -- consecutive rollbacks of the step (R369)
  snapshots : List Nat         -- cores that reported their snapshot point (R366)
  rollbackDue : Bool           -- a rollback is held for the resume (R369)
  deriving DecidableEq, Repr

/-- A gang between selection and dispatch (R89, R92): its record, and the cycle of its GO once its images are loaded. -/
structure Binding where
  gang : Nat
  slot : Nat
  record : List Byte
  go : Option Nat
  deriving DecidableEq, Repr

/-- A tenant stop or resume in progress (R103 to R107, R356). -/
structure StopSt where
  func : Nat
  resume : Bool
  time : Nat                   -- T or T'
  cores : List Nat
  flushed : Bool
  buffer : List Msg            -- packets swept into the save buffers (R104)
  saved : List Nat
  deriving DecidableEq, Repr

/-- A fork in progress, as its join cell and view instances give it (R299). -/
structure ForkSt where
  core : Nat
  cell : Nat
  parent : Nat
  tasks : List (Nat × Nat × Nat)   -- core, row and view instance of each task
  slots : List Nat             -- view table entries it uses
  wait : Bool
  deriving DecidableEq, Repr

/-- The snapshot point of a core in a superstep gang (R365): what the copy-on-write log of its step gives back. -/
structure Snap where
  gang : Nat
  core : Nat
  cells : List Host.Cell       -- local SRAM, operand SRAM and the gang's tiles
  poison : List Nat
  opsKey : List (Nat × Nat)
  tiles : List (Nat × Nat)     -- tiles of the gang with their WMARK
  rows : List (Nat × RowSt)
  forks : List ForkSt
  pool : List (Nat × Nat)
  armed : List Nat
  cdone : List Nat
  sentUp : List (Nat × Nat)
  logged : Option (List Nat)   -- granules in the log in memory, by number; none while its bits are still to be cleared
  touched : List Nat           -- local addresses of writes since the last copy, whatever their value
  deriving DecidableEq, Repr

/-- A saved context (R105, R106): what its area holds in forms that the spec does not give, beside the bytes in the area. -/
structure Saved where
  func : Nat
  cores : List (Nat × CoreSt)
  rows : List (Nat × RowSt)
  gangs : List Gang
  groupTab : List (Nat × Nat)
  buffer : List Msg
  forks : List ForkSt
  snaps : List Snap
  guard : List Nat
  deriving DecidableEq, Repr

/-- An SPDM connection of a responder (R317, R400). -/
structure Spdm where
  version : Bool
  negotiated : Bool
  exchanged : Bool
  session : Bool
  held : Bool                  -- the die is held in reset (R401)
  last : Nat                   -- time of the last message of its session (R400)
  relayed : Option Nat         -- time of a request that Mainstay has relayed to it and that it has not answered (R400)
  deriving DecidableEq, Repr

/-- A repair candidate, a committed repair or a remap (R30, R390): unit, index and detail of its record, and the part that a spare
replaces. -/
structure Repair where
  unit : Nat
  index : Nat
  detail : Nat
  part : Nat
  deriving DecidableEq, Repr

/-- An HBM bank row that is being copied to a spare, and the cycle and time in which the copy began (R390). -/
structure RowCopy where
  stack : Nat
  bank : Nat
  row : Nat
  cycle : Nat
  time : Nat
  deriving DecidableEq, Repr

/-- A packet of the fabric (R323, R324). -/
structure Packet where
  port : Nat
  tag : Nat
  write : Bool
  addr : Nat
  size : Nat
  data : List Byte
  rdev : Nat
  response : Option Nat        -- the access it answers; none for a request
  refused : Nat                -- refusal status of a response; 0 none
  deriving DecidableEq, Repr

/-- What a responder or the TDISP service answers (R317, R319, R399, R400). -/
inductive Response where
  | done                       -- performed, with no data
  | words (ws : List Nat)      -- the data of a response
  | invalidState               -- TDISP error INVALID_INTERFACE_STATE (R399)
  | unspecified                -- SPDM ERROR of code Unspecified (R400)
  | unexpected                 -- SPDM ERROR: the request is out of order (log 10)
  deriving DecidableEq, Repr

/-- What the outside world does next (log 11): a step of an agent that the spec lists; a write to host memory, which the host's own
programs and its hypervisor make at any time (R118, R309, R313); a packet that arrives at a fabric port (R324); a write to the staging area
through BAR2 (R401); a request that Mainstay relays to a die which does not answer it (R400); or a message in a session with a die whose tag fails
(R400; log 144). -/
inductive Input where
  | step (i : Instr)
  | hostWrite (addr : Nat) (bytes : List Byte)
  | packet (p : Packet)
  | stage (off : Nat) (bytes : List Byte)
  | relay (die : Nat)
  | forged (die : Nat)
  deriving DecidableEq, Repr

/-- What is left to do in the current cycle. -/
inductive Work where
  | op (i : Instr)             -- a timed step that is due
  | fire (core bank : Nat)     -- the executor of a bank fires at most one instruction (R67)
  | check (core rid : Nat)     -- commit conditions of an instance at the end of a cycle (R193)
  | judge (core rid : Nat)     -- the condition of a wait exit at the end of the last cycle of its commit (R209)
  | async                      -- one event of an agent without a clock of the executor
  | stage (n was : Nat)        -- the next part of the cycle is planned; `was` is the time of the cycle before
  deriving DecidableEq, Repr

/-- The machine. -/
structure State where
  mem : List Host.Cell             -- all byte-addressed storage, canonical (see above)
  opsKey : List (Nat × Nat)        -- key of each written operand SRAM byte (R91)
  physKey : List (Nat × Nat)       -- key of each written 64-byte unit of HBM, LPDDR and leases (R310)
  poison : List Nat                -- poisoned granules, by key of their first byte (R370, R372)
  guard : List Nat                 -- guard granules, by key of their first byte (R377)
  cycle : Nat                      -- cycles of the arithmetic clock since start-up (R6)
  time : Nat                       -- the time base in ns (R26)
  timeFrac : Nat                   -- fraction of a ns, in units of 1/clock
  clock : Nat                      -- arithmetic clock in MHz (R326)
  powerCycle : Nat                 -- which KCAP is drawn (R255)
  cores : List (Nat × CoreSt)
  clusters : List (Nat × ClusterSt)
  funcs : List (Nat × FuncSt)
  rows : List (Nat × RowSt)        -- allocated rows, by 512 × core + ROWID
  slots : List Slot                -- open slots of every bank
  mesh : List Msg
  accs : List Acc                  -- accesses to global memory in flight
  nextAcc : Nat
  gangs : List Gang
  lastGang : Nat                   -- last identifier assigned (R89)
  groupTab : List (Nat × Nat)      -- entries in use of the group tables (R89): 256 × function + entry, map of gang-local cores
  capSlots : List (Nat × CapSlot)
  qpend : List (Nat × Nat)         -- function and queue of the pending queues, oldest first (R80, R81)
  cancelled : List (Nat × Nat × Nat) -- function, queue and ring index of posted records that are marked cancelled (R93)
  owed : List Owed                 -- additions to DONE and CANCELS not written yet (R352)
  binding : List Binding           -- selected gangs that are not dispatched yet (R89)
  settled : List (Nat × Nat × Nat) -- function, queue and ring index of records whose gangs have ended, or that were discarded
                                   -- or rejected, until the index is posted again (R83)
  forks : List ForkSt
  keyGen : List (Nat × Nat)        -- key generation of each slot (R316)
  nextKey : Nat
  deadRegions : List Nat           -- HBM regions that are not live (R133)
  filling : List Nat               -- regions filling with zeros (R134)
  remapping : List RowCopy         -- HBM bank rows being copied (R390)
  openRows : List (Nat × Nat)      -- open HBM bank row of each bank: 64 × stack + bank
  streaks : List (Nat × Nat × Nat) -- bank, tenant and length of the streak (R131)
  activations : List (Nat × Nat)   -- activations of HBM bank rows in the refresh interval (R378)
  actSpan : Nat                    -- the refresh interval they are counted in, by number
  quarantine : Option Nat          -- stack being copied (R393)
  rehome : List (Nat × Nat × Nat)  -- stack, region and slot of the re-home area
  candidates : List Repair
  repairs : List Repair            -- the repair record in the fuses and flash (R30)
  snaps : List Snap                -- snapshot points of superstep gangs (R365)
  contexts : List Saved            -- contexts that have been saved and not resumed (R105)
  stop : Option StopSt
  invals : List Inval              -- invalidations in progress (R312)
  packets : List Packet            -- packets on their way to a port
  sent : List Packet               -- packets that have left by a port, newest first
  replays : List (Nat × Nat)       -- consecutive replays and failed trainings of a port (R387)
  trainFails : List (Nat × Nat)
  spdm : List (Nat × Spdm)
  ide : List (Nat × Nat)           -- keys of the IDE streams (R320)
  responses : List (Nat × Response) -- SPDM and TDISP responses, newest first, by mailbox
  errLost : Nat                    -- records dropped since the last one written (R397)
  lineErrors : List (Nat × Nat)    -- errors since reset of a local SRAM word line, or of an OPA column (R390)
  chanRemaps : List (Nat × Nat)    -- HBM bank row remaps of a pseudo-channel (R390)
  downPorts : List Nat             -- fabric ports that went down under R387 and have no spare yet (R390)
  applied : List Repair            -- the remaps in effect, in the order in which they took a spare (R30, R31)
  bundle : Option (List Host.Cell) -- the staged boot bundle that was taken; none: the flash's (R325)
  lastBinds : List (Nat × Nat × Nat) -- function, queue and cycle of its last binding (R80)
  clockSum : Nat                   -- clock of the current millisecond, in MHz × ns, and the average of the last one (R326)
  clockAvg : Nat
  rowErrors : List (Nat × Nat)     -- correctable errors of an HBM bank row since the last patrol scrub (R390)
  capRead : Nat                    -- the capability CAPMINT reads (R306)
  linkWidth : Nat                  -- host link (R304)
  linkRate : Nat
  d3hot : Bool                     -- R326
  staged : Bool                    -- the next reset takes the staged bundle (R325)
  pendingOps : List Instr          -- register writes of the device that wait for a page request's reply (R350, R352)
  work : List Work                 -- model: what is left of the current cycle
  inputs : List Input              -- model: what the outside world will do, oldest first (log 11)
  cursor : Option (Nat × Nat × Nat) -- model: core, ROWID and index of the instruction that fires
  freeCtr : Nat                    -- model: free values taken (log 4)
  pickCtr : Nat                    -- model: free choices taken (log 2)
  deriving DecidableEq, Repr

/-- Reasons a step stops. -/
inductive Fault where
  /-- raised by a meaning of an encoded instruction when `cursor` names no running block instance; a step of the machine
  never does this, since the executor only fires instructions of open blocks. Safe: the machine stops. -/
  | noInstance
  deriving DecidableEq, Repr

/-- Reasons a meaning is missing. -/
inductive Refusal where
  /-- raised by an arm of `exec` whose instruction has no meaning yet. Safe: the machine stops. -/
  | notModelled (mnemonic : String)
  deriving DecidableEq, Repr

namespace CoreSt
/-- A core after module reset (R70, R129, R154, R257). -/
def reset : CoreSt :=
  { bconf := [0, 0, 0, 0, 0, 0, 0, 0], hyctl := 16, trEn := false, trWrap := false, trNext := 0, trace := [],
    special := [0, 0, 0, 0, 0, 0, 0, 0], halyard := [], hOrder := 0, opa := [], opaSeq := 0,
    clears := [], cdone := [], armed := [], pool := [], viewRsv := [], tlb := [], stopping := none,
    quiet := false, disabled := false, sentUp := [], tickets := 0, beat := 0 }
end CoreSt

namespace ClusterSt
/-- A cluster after module reset (R129, R172). -/
def reset : ClusterSt :=
  { flagsum := {}, recent := {}, recentAt := 0, epoch := 0, used := 0, late := 0, unused := 0, fills := 0, lines := [], tlb := [], walkSeq := 0 }
end ClusterSt

namespace FuncSt
/-- A function after module reset. -/
def reset : FuncSt :=
  { tags := [], calls := [], callCount := 0, reply := 0, tdi := 0, lockSession := none, halted := false, msix := [] }
end FuncSt

/-- An SPDM responder after module reset. -/
def Spdm.reset : Spdm := { version := false, negotiated := false, exchanged := false, session := false, held := false, last := 0, relayed := none }

/-- The machine right after module reset, with start-up (R325) complete (log 13): BOOTST STAGE 6 (R401), PCAP 2,600 W and
the clock at 2,250 MHz (log 1), every other register at the value its rule gives, memory with nothing else listed. -/
def State.reset : State :=
  { mem := [(Space.bar 0 0x10048, 0x28), (Space.bar 0 0x10049, 0x0A), (Space.bar 0 0x10057, 0x06)],
    opsKey := [], physKey := [], poison := [], guard := [], cycle := 0, time := 0, timeFrac := 0, clock := 2250,
    powerCycle := 0, cores := [], clusters := [], funcs := [], rows := [], slots := [], mesh := [], accs := [], nextAcc := 0,
    gangs := [], lastGang := 0, groupTab := [], capSlots := [], qpend := [], cancelled := [], owed := [], binding := [], settled := [], pendingOps := [], forks := [], keyGen := [], nextKey := 0,
    deadRegions := [], filling := [], remapping := [], openRows := [], streaks := [], activations := [], actSpan := 0,
    quarantine := none, rehome := [], candidates := [], repairs := [], snaps := [], contexts := [], stop := none, invals := [],
    packets := [], sent := [], replays := [], trainFails := [], spdm := [], ide := [], responses := [], errLost := 0, lineErrors := [], chanRemaps := [], downPorts := [],
    applied := [], bundle := none, lastBinds := [], clockSum := 0, clockAvg := 2250, rowErrors := [], capRead := 0,
    linkWidth := 16, linkRate := 64, d3hot := false, staged := false, work := [], inputs := [],
    cursor := none, freeCtr := 0, pickCtr := 0 }

end Sys2Proof.Machine
end

