-- ==== Sys2Proof/Machine/Ops.lean ====
section
/-!
DEFINITION. The named operations over memory and rows, taking a trap (R340, the one operation every precise trap goes
through) and the programs of updates (`Act`) that every meaning is built from.

No instruction returns from a trap: a handler continues with BRX to any block it chooses (R213), so the return is the
exit BRX itself.
-/

namespace Sys2Proof.Machine

open Host (Cell)

/-! ### Memory -/

/-- The byte at an address: the listed one, else what an unlisted address reads as. -/
def Memory.read : List Cell → Nat → Byte
  | [], a => unlisted a
  | (k, b) :: m, a => if k = a then b else Memory.read m a

/-- The cells of bytes written from an address up, those that an unlisted address already reads as left out. -/
def Memory.cells : Nat → List Byte → List Cell
  | _, [] => []
  | a, b :: bs => if b = unlisted a then Memory.cells (a + 1) bs else (a, b) :: Memory.cells (a + 1) bs

/-- Write bytes from an address up. -/
def Memory.write (m : List Cell) (a : Nat) (bs : List Byte) : List Cell :=
  m.filter (fun c => c.1 < a) ++ (Memory.cells a bs ++ m.filter (fun c => a + bs.length ≤ c.1))

/-- Set `n` bytes from an address up to what an unlisted address reads as. -/
def Memory.clear (m : List Cell) (a n : Nat) : List Cell :=
  m.filter (fun c => c.1 < a || a + n ≤ c.1)

/-- Addresses strictly rise. -/
def Memory.sorted : List Cell → Bool
  | [] => true
  | [_] => true
  | a :: b :: m => a.1 < b.1 && Memory.sorted (b :: m)

/-- The canonical form: addresses strictly rising, no entry equal to what an unlisted address reads as. -/
def Memory.wf (m : List Cell) : Bool :=
  Memory.sorted m && m.all (fun c => c.2 != unlisted c.1)

/-- A little-endian number of bytes (R7). -/
def leNat : List Byte → Nat
  | [] => 0
  | b :: bs => b.toNat + 256 * leNat bs

/-- `n` bytes from an address up. -/
def Memory.readN (m : List Cell) : Nat → Nat → List Byte
  | _, 0 => []
  | a, n + 1 => Memory.read m a :: Memory.readN m (a + 1) n

/-! ### Programs of updates -/

/-- A program of updates: every meaning is one, so that what holds of each kind of update holds of every step.
`mod` changes anything but `mem`; `mem` changes only by `write` and `clear`. -/
inductive Act where
  | done
  | write (a : Nat) (bs : List Byte) (k : Act)
  | clear (a n : Nat) (k : Act)
  | mod (f : State → State) (k : Act)
  | get (f : State → Act)

/-- Run a program of updates. -/
def Act.run : Act → State → State
  | .done, s => s
  | .write a bs k, s => k.run { s with mem := Memory.write s.mem a bs }
  | .clear a n k, s => k.run { s with mem := Memory.clear s.mem a n }
  | .mod f k, s => k.run { f s with mem := s.mem }
  | .get f, s => (f s).run s

/-- One program after another. -/
def Act.andThen : Act → Act → Act
  | .done, b => b
  | .write a bs k, b => .write a bs (k.andThen b)
  | .clear a n k, b => .clear a n (k.andThen b)
  | .mod f k, b => .mod f (k.andThen b)
  | .get f, b => .get fun s => (f s).andThen b

/-- Programs one after another. -/
def Act.all : List Act → Act
  | [] => .done
  | a :: as => a.andThen (Act.all as)

/-- A program for each element, in order. -/
def Act.each {α : Type} (xs : List α) (f : α → Act) : Act := Act.all (xs.map f)

/-- A program under a condition. -/
def Act.when (b : Bool) (a : Act) : Act := if b then a else .done

/-- Write bytes at a key of `mem`. -/
def put (a : Nat) (bs : List Byte) : Act := .write a bs .done

/-- Write an `n`-byte number at a key of `mem`. -/
def putLe (a n v : Nat) : Act := .write a (leBytes n v) .done

/-- Zero `n` bytes of `mem` (to what unlisted addresses read as). -/
def wipe (a n : Nat) : Act := .clear a n .done

/-- Change anything but `mem`. -/
def upd (f : State → State) : Act := .mod f .done

/-! ### Tables -/

/-- The value of a key of a sorted table. -/
def Tab.find? {α : Type} : List (Nat × α) → Nat → Option α
  | [], _ => none
  | (k, v) :: t, a => if k = a then some v else Tab.find? t a

/-- Set the value of a key. -/
def Tab.set {α : Type} : List (Nat × α) → Nat → α → List (Nat × α)
  | [], a, v => [(a, v)]
  | (k, w) :: t, a, v =>
    if a < k then (a, v) :: (k, w) :: t else if a = k then (a, v) :: t else (k, w) :: Tab.set t a v

/-- Remove a key. -/
def Tab.erase {α : Type} (t : List (Nat × α)) (a : Nat) : List (Nat × α) := t.filter (fun e => e.1 != a)

/-! ### Reading the state -/

namespace State

/-- The byte at a key. -/
def byte (s : State) (a : Nat) : Byte := Memory.read s.mem a

/-- The `n` bytes at a key. -/
def bytes (s : State) (a n : Nat) : List Byte := Memory.readN s.mem a n

/-- The `n`-byte number at a key (R7). -/
def le (s : State) (a n : Nat) : Nat := leNat (s.bytes a n)

/-- The `n`-byte number at a local address of a core. -/
def loc (s : State) (core addr n : Nat) : Nat := s.le (Space.loc core addr) n

/-- A register of a function's BAR0 (R305, R306). -/
def bar (s : State) (f off n : Nat) : Nat := s.le (Space.bar f off) n

/-- What a core holds beside its memory. -/
def coreSt (s : State) (c : Nat) : CoreSt := (Tab.find? s.cores c).getD CoreSt.reset

/-- What a cluster holds. -/
def clusterSt (s : State) (c : Nat) : ClusterSt := (Tab.find? s.clusters c).getD ClusterSt.reset

/-- What the device holds for a function. -/
def func (s : State) (f : Nat) : FuncSt := (Tab.find? s.funcs f).getD FuncSt.reset

/-- The record of an allocated row. -/
def row? (s : State) (core rid : Nat) : Option RowSt := Tab.find? s.rows (512 * core + rid)

/-- The open slot of a row. -/
def slot? (s : State) (core rid : Nat) : Option Slot := s.slots.find? fun x => x.core == core && x.rid == rid

/-- A row counts as open from the first cycle of its opening to the last of its closing (R74). -/
def isOpen (s : State) (core rid : Nat) : Bool := (s.slot? core rid).isSome

/-- A live gang, or the gang in binding. -/
def gang? (s : State) (g : Nat) : Option Gang := s.gangs.find? fun x => x.id == g

end State

/-! ### Changing the state -/

def modCore (c : Nat) (f : CoreSt → CoreSt) : Act :=
  upd fun s => { s with cores := Tab.set s.cores c (f (s.coreSt c)) }

def modCluster (c : Nat) (f : ClusterSt → ClusterSt) : Act :=
  upd fun s => { s with clusters := Tab.set s.clusters c (f (s.clusterSt c)) }

def modFunc (g : Nat) (f : FuncSt → FuncSt) : Act :=
  upd fun s => { s with funcs := Tab.set s.funcs g (f (s.func g)) }

/-- Change the record of an allocated row. -/
def modRow (core rid : Nat) (f : RowSt → RowSt) : Act :=
  upd fun s => match s.row? core rid with
    | some r => { s with rows := Tab.set s.rows (512 * core + rid) (f r) }
    | none => s

/-- Change the slot of an open row. -/
def modSlot (core rid : Nat) (f : Slot → Slot) : Act :=
  upd fun s => { s with slots := s.slots.map fun x => if x.core == core && x.rid == rid then f x else x }

def modInst (core rid : Nat) (f : Inst → Inst) : Act := modSlot core rid fun x => { x with inst := f x.inst }

def setPhase (core rid : Nat) (p : Phase) : Act := modSlot core rid fun x => { x with phase := p }

def modGang (g : Nat) (f : Gang → Gang) : Act :=
  upd fun s => { s with gangs := s.gangs.map fun x => if x.id == g then f x else x }

/-- Raise an MSI-X vector of a function (R304). -/
def msix (f v : Nat) : Act := modFunc f fun x => { x with msix := x.msix ++ [v] }

/-- Put a message into the mesh, behind the messages dispatched before it. -/
def send (m : Msg) : Act := upd fun s => { s with mesh := s.mesh ++ [{ m with since := s.cycle }] }

/-- Take one free value (log 4). -/
def free (k : Nat → Act) : Act :=
  .get fun s => .mod (fun s => { s with freeCtr := s.freeCtr + 1 }) (k (Config.freeValue s.freeCtr))

/-! ### Core indices (R18) -/

/-- Cluster of a core: 16 cores each (R18). -/
def clusterOf (core : Nat) : Nat := core / 16

/-- Die of a core: 0 die A, 1 die B (R18). -/
def dieOf (core : Nat) : Nat := core / 128

/-! ### Rows (R49 to R60) -/

/-- Local address of a row (R49). -/
def rowBase (rid : Nat) : Nat := rid / 64 * 0x40000 + rid % 64 * 0x1000

/-- Key of a byte of a row. -/
def rowKey (core rid off : Nat) : Nat := Space.loc core (rowBase rid + off)

/-- The ROWID of the position that holds a local SRAM address. -/
def ridOf (addr : Nat) : Nat := addr / 0x40000 * 64 + addr % 0x40000 / 0x1000

/-- A field of a row. -/
def State.rowLe (s : State) (core rid off n : Nat) : Nat := s.le (rowKey core rid off) n

/-- A poison mark (R372) goes where a write covers its granule whole; the granule of local SRAM and accumulators is 4 B, of operand SRAM
and the tables' words 8 B, of HBM and LPDDR 64 B (R370), and of an event line a word of it (log 129). -/
def granule (a : Nat) : Nat :=
  if a < 2 ^ 40 then
    (if a % 2 ^ 32 / 0x200000 = 0x01000000 / 0x200000 ∨ a % 2 ^ 32 / 0x2000 = 0x01300000 / 0x2000 then 8 else 4)
  else if a < 2 ^ 41 then 4 else 64

/-- The first key of the poison granule of a key. -/
def granuleOf (a : Nat) : Nat := a / granule a * granule a

/-- A write of clean bytes clears the mark of every granule it covers whole (R372). -/
def unpoison (a n : Nat) : Act :=
  upd fun s => { s with poison := s.poison.filter fun g => !(a ≤ g && g + granule g ≤ a + n) }

/-- Local addresses of a core that a superstep's log covers have been written (R365). -/
def touch (core : Nat) (as : List Nat) : Act :=
  upd fun s => { s with snaps := s.snaps.map fun x => if x.core == core then { x with touched := as ++ x.touched } else x }


/-- STATE.CODE (R53): 0 idle, 1 ready, 2 open, 3 waiting, 4 halted, 5 trapped, 6 stopped. -/
def State.code (s : State) (core rid : Nat) : Nat := s.rowLe core rid 0 1 % 8

/-- Write bits `[hi:lo]` of an `n`-byte number at a key. -/
def putBits (a n hi lo v : Nat) : Act :=
  .get fun s =>
    let x := s.le a n
    .all [putLe a n (x - bits x hi lo * 2 ^ lo + v % 2 ^ (hi + 1 - lo) * 2 ^ lo), .when (a < 2 ^ 40) (touch (a / 2 ^ 32) [a % 2 ^ 32])]

/-- The device writes an `n`-byte number at a local address of a core, in place: a step's log takes note of it (R365), and marks go where it
covers their granules whole (R372). -/
def putLoc (core addr n v : Nat) : Act :=
  .all [putLe (Space.loc core addr) n v, unpoison (Space.loc core addr) n, touch core [addr]]

/-- Write a number of a row whole. -/
def putRow (core rid off n v : Nat) : Act := putLoc core (rowBase rid + off) n v

def setCode (core rid c : Nat) : Act := putBits (rowKey core rid 0) 8 2 0 c

/-- WAITK, WAITOBJ and WPH (R53). -/
def State.waitk (s : State) (core rid : Nat) : Nat := bits (s.rowLe core rid 0 8) 19 16
def State.waitobj (s : State) (core rid : Nat) : Nat := bits (s.rowLe core rid 0 8) 63 40
def State.wph (s : State) (core rid : Nat) : Nat := bits (s.rowLe core rid 0 8) 36 36

def setWait (core rid k obj wph : Nat) : Act :=
  .all [putBits (rowKey core rid 0) 8 19 16 k, putBits (rowKey core rid 0) 8 63 40 obj,
        putBits (rowKey core rid 0) 8 36 36 wph]

def clearWait (core rid : Nat) : Act := .all [setWait core rid 0 0 0, modRow core rid fun r => { r with wake := false }]

def State.pc (s : State) (core rid : Nat) : Nat := s.rowLe core rid 0x08 4
def State.nextpc (s : State) (core rid : Nat) : Nat := s.rowLe core rid 0x0C 4
def State.trappc (s : State) (core rid : Nat) : Nat := s.rowLe core rid 0x60 4
def State.errword (s : State) (core rid : Nat) : Nat := s.rowLe core rid 0x58 8
def State.link (s : State) (core rid : Nat) : Nat := s.rowLe core rid 0x70 8
def State.tenant (s : State) (core rid : Nat) : Nat := bits (s.rowLe core rid 0x50 8) 55 46
def State.gangId (s : State) (core rid : Nat) : Nat := bits (s.rowLe core rid 0x50 8) 45 30
def State.stage (s : State) (core rid : Nat) : Nat := bits (s.rowLe core rid 0 8) 22 20
def State.prio (s : State) (core rid : Nat) : Nat := bits (s.rowLe core rid 0 8) 35 32

def setPc (core rid v : Nat) : Act := putRow core rid 0x08 4 v

/-- Make a row ready (R62); its ready time is the current cycle. -/
def makeReady (core rid : Nat) : Act :=
  .all [setCode core rid 1, .get fun s => modRow core rid fun r => { r with ready := s.cycle, aged := false, wake := false }]

/-- Which bits of a control-field byte a store may change (R8, R53 to R61). Request bits act and are not stored. -/
def storeMask (off : Nat) : Nat :=
  if off < 0x08 then (if off = 4 then 0x0F else 0)
  else if off < 0x0C then 0
  else if off < 0x10 then (if off = 0x0C then 0xF0 else 0xFF)
  else if off < 0x18 then (if off = 0x10 then 0x03 else if off = 0x11 then 0x1F else 0)
  else if off < 0x48 then 0xFF
  else if off < 0x4C then (if off = 0x48 then 0x07 else 0)
  else if off < 0x58 then 0
  else if off < 0x60 then (if off = 0x58 then 0xFE else 0xFF)
  else if off < 0x64 then (if off = 0x60 then 0xF0 else 0xFF)
  else if off < 0x6A then (if off = 0x64 then 0xF0 else 0xFF)
  else if off < 0x78 then 0
  else if off < 0xC0 then 0xFF
  else if off < 0x100 then 0
  else 0xFF

/-- What a stored byte leaves at an offset of a row: the bits a store may change from the new byte, the others kept; a
DEPTH above 4 leaves DEPTH unchanged (R56). -/
def storedByte (off : Nat) (old new : Byte) : Byte :=
  if off = 0x48 ∧ new.toNat % 8 > 4 then old
  else
    let m := BitVec.ofNat 8 (storeMask off)
    (old &&& ~~~m) ||| (new &&& m)

/-! ### Requests (R62, R63) on a row that is not open -/

/-- WAITERS of the event line a row waits on, one more or one less (R286); a row that the line has released is not among them. -/
def bumpWaiters (core rid : Nat) (up : Bool) : Act :=
  .get fun s =>
    let key := Space.event (clusterOf core) (64 * (s.waitobj core rid % 64) + 4)
    .when (s.waitk core rid == 2 && !(s.row? core rid).any (·.wake)) (putLe key 2 (if up then s.le key 2 + 1 else s.le key 2 - 1))

/-- REDIR on a row that is not open: PC := NEXTPC; a stopped row gives up its wait, a waiting row becomes ready. The
progress of a REP block closed by force is of no further use. -/
def redirClosed (core rid : Nat) : Act :=
  .get fun s =>
    let c := s.code core rid
    .all [setPc core rid (s.nextpc core rid), modRow core rid fun r => { r with rep := 0 },
          .when (c == 6) (clearWait core rid),
          .when (c == 3) (.all [bumpWaiters core rid false, clearWait core rid, makeReady core rid])]

/-- STOPREQ on a row that is not open: ready, waiting, halted and trapped rows stop. -/
def stopClosed (core rid : Nat) : Act :=
  .get fun s => let c := s.code core rid
    .all [.when (c == 3) (bumpWaiters core rid false),
          .when (c == 1 || c == 3 || c == 4 || c == 5) (setCode core rid 6)]

/-- Whether the event line a stopped row waits on would release it now (R209, R287). A phase of a barrier line that completed while its waiter
was stopped, which R62 leaves open, does not meet the condition (log 41). -/
def State.lineMet (s : State) (core rid line : Nat) : Bool :=
  let a := Space.event (clusterOf core) (64 * line)
  let w := s.le a 4
  match bits w 31 30 with
  | 3 => bit w 28
  | 2 => !bit w 27 || (bits (s.le (a + 8) 4) 31 24 == core && bits (s.le (a + 8) 4) 8 0 == rid)
  | _ => false

/-- The condition of a waiting or stopped row, on the object that WAITOBJ names (R209). -/
def State.waitMet (s : State) (core rid : Nat) : Bool :=
  let obj := s.waitobj core rid
  match s.waitk core rid with
  | 1 => s.loc core obj 1 % 2 == s.wph core rid
  | 2 => s.lineMet core rid (obj % 64)
  | 3 => (s.loc core (obj + 0x0C) 4 + 2 ^ 32 - s.loc core (obj + 8) 4) % 2 ^ 32 < s.loc core (obj + 4) 2
  | 4 => s.loc core (obj + 0x0C) 4 != s.loc core (obj + 8) 4
  | 5 => s.loc core (obj + 7) 1 == 0 || s.loc core obj 2 == 0
  | _ => true

/-- RUNREQ on a row that is not open: an idle row runs from PC; a stopped row waits on, or becomes ready. -/
def runClosed (core rid : Nat) : Act :=
  .get fun s =>
    match s.code core rid with
    | 0 => makeReady core rid
    | 6 =>
      let k := Space.event (clusterOf core) (64 * (s.waitobj core rid % 64))
      if s.waitk core rid != 0 && !s.waitMet core rid then .all [setCode core rid 3, bumpWaiters core rid true]
      else .all [.when (s.waitk core rid == 2 && bits (s.le k 4) 31 30 == 2)
                   (.all [putLe k 4 (s.le k 4 - bits (s.le k 4) 27 27 * 2 ^ 27 + 2 ^ 27), putLe (k + 8) 4 (core * 2 ^ 24 + rid)]),
                 clearWait core rid, makeReady core rid]
    | _ => .done

/-- Hold something for an open or claimed row, in arrival order (R74). -/
def holdFor (core rid : Nat) (h : Held) : Act := modRow core rid fun r => { r with held := r.held ++ [h] }

/-- A row that stores, atomics and requests from outside are held for: open, or claimed (R74, R216). -/
def State.holds (s : State) (core rid : Nat) : Bool := s.isOpen core rid || (s.row? core rid).any fun r => r.claim.isSome

/-- A request has reached an open row: SPEND, RPEND (R63). -/
def pend (core rid : Nat) (stop redir : Bool) : Act :=
  .get fun s => .when (s.isOpen core rid)
    (.all [.when stop (putBits (rowKey core rid 0) 8 11 11 1), .when redir (putBits (rowKey core rid 0) 8 12 12 1)])

/-- The row's gang has been dispatched (R92). -/
def State.started (s : State) (core rid : Nat) : Bool := (s.gang? (s.gangId core rid)).any (·.dispatched)

/-- Requests act (R63): on a row that is not open at once, where what pended is met by them; on an open row at its boundary. REDIR acts
before RUNREQ, and STOPREQ wins over RUNREQ. Before the GO of its gang a row takes none (R92). -/
def actRequest (core rid : Nat) (run stop redir : Bool) : Act :=
  .get fun s =>
    if s.isOpen core rid then pend core rid stop redir
    else
      .when (s.started core rid) <| .all [.when stop (putBits (rowKey core rid 0) 8 11 11 0), .when redir (putBits (rowKey core rid 0) 8 12 12 0),
            .when redir (redirClosed core rid), .when stop (stopClosed core rid),
            .when (run && !stop) (runClosed core rid)]

/-- Requests arrive for a row: those for an open or claimed row are held for it (R62, R74, R216). -/
def request (core rid : Nat) (run stop redir : Bool) : Act :=
  .get fun s =>
    if s.holds core rid then .all [holdFor core rid (.request run stop redir), pend core rid stop redir]
    else actRequest core rid run stop redir

/-! ### Poison and guard tags (R370 to R373, R377) -/

/-- A granule's mark; of a word of a table, which has none to deliver, that its error stands until the entry is written (R375). -/
def State.poisoned (s : State) (a : Nat) : Bool := s.poison.contains (granuleOf a)

/-- Insert into a sorted list without repeats. -/
def insertSorted (a : Nat) : List Nat → List Nat
  | [] => [a]
  | b :: t => if a < b then a :: b :: t else if a = b then b :: t else b :: insertSorted a t

/-- Mark the granule of a key poisoned: in the instruction store there is none to mark. -/
def poisonAt (a : Nat) : Act :=
  upd fun s => if a < 2 ^ 40 ∧ 0x01302000 ≤ a % 2 ^ 32 then s else { s with poison := insertSorted (granuleOf a) s.poison }

/-- The first address of a list whose granule at a core is poisoned (R375). -/
def State.firstPoisoned (s : State) (core : Nat) (as : List Nat) : Option Nat := as.find? fun a => s.poisoned (Space.loc core a)

def State.guarded (s : State) (a : Nat) : Bool := s.guard.contains (a / 64 * 64)

/-- Consecutive bytes of a list, as runs from a first address. -/
def runs : List PByte → List (Nat × List Byte)
  | [] => []
  | b :: bs =>
    match runs bs with
    | (a, r) :: rest => if b.addr + 1 = a then (b.addr, b.byte :: r) :: rest else (b.addr, [b.byte]) :: (a, r) :: rest
    | [] => [(b.addr, [b.byte])]

/-- The armed barrier object that a byte of a core lies in (R355). -/
def State.armedAt (s : State) (core addr : Nat) : Option Nat :=
  let o := addr / 32 * 32
  if (s.coreSt core).armed.contains o then some o else none

/-- The gang bound on a core (R87: one at most). -/
def State.gangOn? (s : State) (core : Nat) : Option Gang :=
  s.gangs.find? fun g => (g.first ≤ core && core < g.first + g.groups * g.cores)
    || (g.paired && g.firstB ≤ core && core < g.firstB + g.groups * g.cores)

/-- A byte of the descriptor of a stage queue of the core's gang, whose fields are read-only or reserved (R289). -/
def State.inQueue (s : State) (core a : Nat) : Bool :=
  (s.gangOn? core).any fun g => g.queues.any fun q => q.base ≤ a && a < q.base + 32

/-- What a byte written over another leaves at a local address of a core: in the area of an allocated row as the access codes of
its fields give (R8, R52), in a queue descriptor what stood there (R8, R10, R289). -/
def State.leaves (s : State) (core a : Nat) (old new : Byte) : Byte :=
  if a < 0x200000 && (s.row? core (ridOf a)).isSome then storedByte (a % 0x1000) old new else if s.inQueue core a then old else new

/-- A write to an address of a core changes at least one bit there: it is not ignored whole (R8, R10, R61). -/
def State.writable (s : State) (core a : Nat) : Bool :=
  if a < 0x200000 && (s.row? core (ridOf a)).isSome then storeMask (a % 0x1000) != 0 else !s.inQueue core a

/-- The bytes of a store that act on the bytes or the marks of a core: those of which a bit is written, and clean ones beside such a byte in
their granule, which the store covers with it (R52, R372). -/
def State.acting (s : State) (core : Nat) (bs : List PByte) : List PByte :=
  bs.filter fun b => s.writable core b.addr
    || (!b.poison && (List.range 4).any fun i => s.writable core (b.addr / 4 * 4 + i))

/-- Write bytes at local addresses of a core, with their poison marks; what is ignored leaves no mark, and a store that covers a granule whole
clears its mark where it may write some of its bits (R52, R372). A poisoned byte's data is unspecified (R373): a free value. -/
def writeLocal (core : Nat) (bytes : List PByte) : Act :=
  .get fun s =>
    let key (a : Nat) : Nat := Space.loc core a
    let bs := s.acting core bytes
    .all [touch core ((bs.filter fun b => s.writable core b.addr).map (·.addr)), .each (runs ((bs.filter fun b => !b.poison).map fun b => { b with byte := s.leaves core b.addr (s.byte (key b.addr)) b.byte })) fun r =>
            .all [put (key r.1) r.2, unpoison (key r.1) r.2.length],
          .each (bs.filter (·.poison)) fun b => .all [
            poisonAt (key b.addr),
            if b.exact then .get fun s => put (key b.addr) [s.leaves core b.addr (s.byte (key b.addr)) b.byte]
            else free fun v => .get fun s => put (key b.addr) [s.leaves core b.addr (s.byte (key b.addr)) (BitVec.ofNat 8 v)]]]

/-- The bytes of a number at an address. -/
def pbytes (a w v : Nat) (poison : Bool) : List PByte :=
  (leBytes w v).zipIdx.map fun p => { addr := a + p.2, byte := p.1, poison := poison }

/-- A number is written at a local address by an instruction or an engine: each bit as its access code gives (R8, R10). -/
def writeNum (core addr n v : Nat) : Act := writeLocal core (pbytes addr n v false)

/-! ### Rings in host memory and error records (R305, R313, R397) -/

/-- Key of a host bus address (R118). -/
def hostKey (b : Nat) : Nat := Space.phys (2 ^ 51 + b % 2 ^ 51)

/-- Records that a ring of the form of PRQCTL can still take: SIZE in [47:32] from 16 to 4,096 and a power of two, TAIL in
[31:16], HEAD in [15:0] (R305, R313). -/
def State.ringRoom (s : State) (f ctl : Nat) : Nat :=
  let c := s.bar f ctl 8
  let n := bits c 47 32
  if [16, 32, 64, 128, 256, 512, 1024, 2048, 4096].contains n then
    n - 1 - (bits c 31 16 + n - c % 2 ^ 16 % n) % n
  else 0

/-- Write one 32-byte record at a ring's TAIL, which moves on. -/
def ringPut (f base ctl : Nat) (record : List Byte) : Act :=
  .get fun s =>
    let c := s.bar f ctl 8
    .all [put (hostKey (s.bar f base 8 + 32 * bits c 31 16)) record,
          putBits (Space.bar f ctl) 8 31 16 ((bits c 31 16 + 1) % max (bits c 47 32) 1)]

/-- Raise a 32-bit counter that stops at its maximum. -/
def bump (key : Nat) : Act := .get fun s => putLe key 4 (min (s.le key 4 + 1) 0xFFFFFFFF)

/-- Write a record into the physical function's error ring, or drop it while the ring is full (R397). Records of different dies, whose order R27
and R398 leave open, are written as they are detected, in TIME order (log 112). -/
def errorRecord (unit kind : Nat) (inj shared : Bool) (func index addr detail : Nat) : Act :=
  .get fun s =>
    if s.ringRoom 0 0x10060 = 0 then upd fun s => { s with errLost := s.errLost + 1 }
    else
      let flags := inj.toNat + (if s.errLost != 0 then 2 else 0) + 4 * shared.toNat
      .all [ringPut 0 0x10058 0x10060 (leBytes 1 unit ++ leBytes 1 kind ++ leBytes 1 flags ++ leBytes 1 0 ++ leBytes 2 (func % 1024)
              ++ leBytes 2 index ++ leBytes 8 addr ++ leBytes 8 s.time ++ leBytes 8 detail),
            upd fun s => { s with errLost := 0 }, msix 0 5]

/-- An error at a detector is counted for the function it is attributed to and recorded (R371, R372, R395 to R397). -/
def reportError (unit index func addr : Nat) (uncorrectable inj shared : Bool) : Act :=
  .all [bump (Space.bar func (if uncorrectable then 0x8C else 0x88)),
        errorRecord unit (if uncorrectable then 2 else 1) inj shared func index addr 0]

/-- The injection that INJCTL arms for an access at a detector, if any: its KIND (R394). `pa` is 0 for accesses without a
physical address. -/
def State.injects (s : State) (unit index pa : Nat) : Option Nat :=
  let w := s.bar 0 0x10068 8
  let m := w % 2 ^ 40
  if bit w 63 ∧ bits w 47 40 ≠ 0 ∧ bits w 59 56 = unit ∧ bits w 55 48 = index ∧ (m = 0 ∨ m = pa / 4096 % 2 ^ 40) then
    (if 1 ≤ bits w 62 60 ∧ bits w 62 60 ≤ 4 then some (bits w 62 60) else none)
  else none

/-- One injection is used up; ARM falls with the last. -/
def useInjection : Act :=
  .get fun s =>
    let n := bits (s.bar 0 0x10068 8) 47 40 - 1
    .all [putBits (Space.bar 0 0x10068) 8 47 40 n, .when (n == 0) (putBits (Space.bar 0 0x10068) 8 63 63 0)]

/-- A repair candidate and its record (R390). -/
def addCandidate (unit index detail part : Nat) : Act :=
  .all [upd fun s => { s with candidates := s.candidates ++ [{ unit := unit, index := index, detail := detail, part := part }] },
        errorRecord unit 6 false true 0 index 0 detail]

/-- An error in a core's local SRAM (R390): any uncorrectable one, or the eighth correctable one of a word line and each further one, makes
it a repair candidate, where it is none and has no committed repair, while the bank has a redundant word line left; else the core is
disabled. `spares` and `kind` serve OPA columns too. An uncorrectable error of a word line has the `weight` of eight correctable ones. -/
def coreError (core kind line weight spares : Nat) : Act :=
  .get fun s =>
    let key := core * 2 ^ 40 + kind * 2 ^ 32 + line % 2 ^ 32
    let n := (Tab.find? s.lineErrors key).getD 0
    let unit := if kind = 8 then 3 else 1
    let mine := (s.repairs ++ s.candidates).filter fun r => r.unit == unit && r.index == core && r.detail == kind
    .all [upd fun s => { s with lineErrors := Tab.set s.lineErrors key (n + weight) },
          .when (8 ≤ n + weight && !mine.any fun r => r.part == line) (
            if mine.length < spares then addCandidate unit core kind line
            else upd fun s => { s with work := .op (.coreDisable core) :: s.work })]

/-- What an error in an array of a core leads to: local SRAM by bank (detail 16 and up), accumulators by column (detail 8). -/
def arrayError (unit core addr : Nat) (uncorrectable : Bool) : Act :=
  if unit = 1 then coreError core (16 + addr / 0x40000) (Config.wordLine addr) (if uncorrectable then 8 else 1) 16
  else .when (unit == 3) (coreError core 8 (addr / 4 % 128) 1 2)

/-- Unit of the array that holds a local address, in the codes of R397. -/
def arrayUnit (addr : Nat) : Nat :=
  if addr < 0x200000 then 1 else if addr < 0x01200000 then 2 else if addr < 0x01300000 then 3 else if addr < 0x01800000 then 5 else 4

/-- An injected error of KIND 1 or 2 at an access to an array: counted and recorded, an uncorrectable one poisoning the
granule of `key` with its data unchanged. It goes on with whether an error was injected, and whether uncorrectable. -/
def injectArray (unit index pa key func addr : Nat) (shared : Bool) (k : Bool → Bool → Act) : Act :=
  .get fun s => match s.injects unit index pa with
    | some 1 => .all [useInjection, reportError unit index func addr false true shared, k true false]
    | some 2 => .all [useInjection, poisonAt key, reportError unit index func addr true true shared, k true true]
    | _ => k false false

/-- A word of an array of a core is read for a function, where an injection may report an error (R394). -/
def injectWord (core addr func : Nat) : Act :=
  let unit := arrayUnit addr
  injectArray unit core 0 (Space.loc core addr) func addr false fun hit ue => .when hit (arrayError unit core addr ue)

/-- An access reads some bytes of arrays of a core: each word of the arrays' codes that it reads is read at the detector (R370, R394). -/
def injectBytes (core : Nat) (as : List Nat) (func : Nat) : Act :=
  .get fun s => .when (bit (s.bar 0 0x10068 8) 63)
    (.each (as.map fun a => granuleOf (Space.loc core a) % 2 ^ 32).eraseDups fun a => injectWord core a func)

/-! ### Rollback of a superstep (R367) -/

/-- A gang's current step can be rolled back; what that leaves before its first snapshot point, log 130 says. -/
def State.rollsBack (s : State) (gang : Nat) : Bool := (s.gang? gang).any (·.superstep)

/-- A rollback of a gang's step is ordered. -/
def startRollback (gang : Nat) : Act :=
  upd fun s => if s.work.contains (.op (.rollback gang)) then s else { s with work := .op (.rollback gang) :: s.work }

/-! ### Conditions -/

/-- Poison consumed by a function's row is counted and recorded (R395, R397). -/
def poisonConsumed (core func addr : Nat) : Act :=
  .all [bump (Space.bar func 0x90), errorRecord 1 3 false false func core addr 0]

/-- A condition on its way to, or at, the row that dispatched an access (R344): recorded at once on a row that is not
open, held for its next boundary else. A further one of the same chunk only sets AMORE of a row that holds one. Poison consumed
in a superstep gang is not recorded, but starts a rollback (R367). -/
def recordCond (core rid : Nat) (c : Cond) : Act :=
  .get fun s =>
    let e := s.errword core rid
    if c.code = 0x0804 ∧ s.rollsBack (s.gangId core rid) then
      .all [poisonConsumed c.acore (s.tenant core rid) c.ainfo, startRollback (s.gangId core rid)]
    else if c.more then .when (bits e 63 48 != 0) (putBits (rowKey core rid 0x58) 8 47 47 1)
    else
      .all [if bits e 63 48 = 0 then
              putRow core rid 0x58 8 (c.code % 65536 * 2 ^ 48 + bits e 46 46 * 2 ^ 46 + c.lsid % 16 * 2 ^ 42
                + c.acore % 256 * 2 ^ 34 + c.ainfo % 2 ^ 21 * 2 ^ 13 + bits e 12 2 * 4 + (if c.isExit then 2 else 0))
            else putBits (rowKey core rid 0x58) 8 47 47 1,
            .when (0x0801 ≤ c.code && c.code ≤ 0x0807) (bump (Space.bar (s.tenant core rid) 0x94)),
            .when (c.code == 0x0804) (poisonConsumed c.acore (s.tenant core rid) c.ainfo)]

/-- A condition reaches its row. -/
def deliverCond (core rid : Nat) (c : Cond) : Act :=
  .get fun s => if s.isOpen core rid && !(c.code == 0x0804 && s.rollsBack (s.gangId core rid)) then holdFor core rid (.cond c)
    else .when (s.row? core rid).isSome (recordCond core rid c)

/-- A condition that an access of an origin caused reaches its row: 0x0805 once for the messages of one instruction instance (R377). -/
def deliverOnce (org : Origin) (c : Cond) : Act :=
  .get fun s =>
    if c.code = 0x0805 ∧ org.group ≠ 0 then
      .when (!(s.row? org.core org.rid).any fun r => r.tagged.contains org.group)
        (.all [modRow org.core org.rid fun r => { r with tagged := org.group :: r.tagged.filter fun g => r.pending.any (g ≤ ·) },
               deliverCond org.core org.rid c])
    else deliverCond org.core org.rid c

/-- The acknowledgement of a counted access lowers the row's outstanding count (R143); one of a step that has been rolled back
does not (R367). -/
def lowerCount (org : Origin) : Act :=
  modRow org.core org.rid fun r =>
    if r.pending.contains org.seq then { r with outst := r.outst - 1, pending := r.pending.erase org.seq } else r

/-- The acknowledgement of an access goes back to one row, with the condition it caused, if any (R143, R344). An access
from the row's own core needs no message. Poison consumed for a superstep gang starts its rollback where it is met (R367). -/
def acknowledgeRow (at' : Nat) (org : Origin) (c : Option Cond) (counted : Bool) : Act :=
  .get fun s =>
    if c.any (·.code == 0x0804) && s.rollsBack org.gang then
      .all [poisonConsumed at' org.func (c.elim 0 (·.ainfo)), startRollback org.gang]
    else if at' = org.core then
      .all [.when counted (lowerCount org), match c with | some c => deliverOnce org c | none => .done]
    else if counted ∨ c.isSome then send { src := at', dst := org.core, org := org, pay := .ack c counted }
    else .done

/-- A message counts as an access of its row (R143). -/
def Msg.counted (m : Msg) : Bool :=
  m.org.seq != 0 && match m.pay with
    | .arrive _ _ b _ => b == 0
    | .chunk _ => false
    | .store _ _ _ none | .atomic _ none | .signal .. | .opa _ | .post .. => true
    | _ => false

/-- Of a message that goes to both copies of a paired gang the other one is still on its way: the access is acknowledged with the last of them
(R143, R363). -/
def State.copyLeft (s : State) (org : Origin) : Bool :=
  s.mesh.any fun m => m.counted && m.org.core == org.core && m.org.rid == org.rid && m.org.seq == org.seq && m.org.copy != org.copy

/-- The same access of the row of the other copy of a paired gang, which one performance serves (R363). -/
def Origin.other (o : Origin) : Option Origin :=
  o.twin.map fun t => { o with
    core := t.1, rid := t.2.1, seq := t.2.2, group := if o.group = 0 then 0 else t.2.2 - (o.seq - o.group), twin := none }

/-- The acknowledgement of an access goes back to its row, and to the row of copy B that it serves too. One that goes to both copies of another
paired gang counts once both have it; its condition is that of the core it names (log 83). -/
def acknowledge (at' : Nat) (org : Origin) (c : Option Cond) (counted : Bool) : Act :=
  .get fun s =>
    let done := counted && !s.copyLeft org
    let cond := if org.copy then none else c
    match org.other with
    | none => acknowledgeRow at' org cond done
    | some o => .all [acknowledgeRow at' org cond done, acknowledgeRow at' o cond done]

/-- The condition of an access. -/
def condOf (org : Origin) (code acore ainfo : Nat) : Cond :=
  { code := code, lsid := org.lsid, acore := acore, ainfo := ainfo % 2 ^ 21, isExit := org.isExit }

/-- The bytes of a store that set request bits in the STATE of a row of a dispatched gang (R53, R62). -/
def State.requests (s : State) (core : Nat) (bs : List PByte) : List PByte :=
  bs.filter fun b => b.addr < 0x200000 && b.addr % 0x1000 == 1 && b.byte.toNat % 8 != 0
    && (s.row? core (ridOf b.addr)).isSome && s.started core (ridOf b.addr)

/-- Perform a store at a core (R74, R355, R377): refused whole over an armed barrier object, tagged guard bytes left out,
request bits of a row's STATE acting. Answers in the continuation the bytes performed and the condition it raises. -/
def performStore (core : Nat) (org : Origin) (bs : List PByte) (k : Nat → Option Cond → Act) : Act :=
  .get fun s =>
    match bs.findSome? fun b => s.armedAt core b.addr with
    | some o => k 0 (some (condOf org 0x0803 core o))
    | none =>
      let clean := bs.filter fun b => !s.guarded (Space.loc core b.addr)
      .all [writeLocal core clean,
            .each (s.requests core clean) fun b =>
              actRequest core (ridOf b.addr) (bit b.byte.toNat 0) (bit b.byte.toNat 1) (bit b.byte.toNat 2),
            k clean.length ((bs.find? fun b => s.guarded (Space.loc core b.addr)).map fun b => condOf org 0x0805 core b.addr)]

/-- A byte that is held for a row other than `own` (R74, R216). -/
def State.away (s : State) (core own : Nat) (b : PByte) : Bool :=
  b.addr < 0x200000 && ridOf b.addr != own && s.holds core (ridOf b.addr)

/-- The parts of a store that are held, by row (R74, R75): each row's bytes wait for it alone. -/
def State.heldParts (s : State) (core own : Nat) (bs : List PByte) : List (Nat × List PByte) :=
  let held := bs.filter (s.away core own)
  (held.map fun b => ridOf b.addr).eraseDups.map fun r => (r, held.filter fun b => ridOf b.addr == r)

/-- A store reaches a core (R74): its bytes in open or claimed rows but `own` are held for them, one part for each row, and set SPEND and RPEND
at once (R63); the others are performed. One over an armed object is refused whole, whatever its parts (R355). It goes on with the number of
parts held, the bytes performed and the condition raised. -/
def placeStore (core own : Nat) (org : Origin) (bs : List PByte) (fin : Fin) (k : Nat → Nat → Option Cond → Act) : Act :=
  .get fun s =>
    let parts := if bs.any fun b => (s.armedAt core b.addr).isSome then [] else s.heldParts core own bs
    .all [.each parts fun p => .all [
            holdFor core p.1 (.store org p.2 fin),
            .each (s.requests core p.2) fun b => pend core p.1 (bit b.byte.toNat 1) (bit b.byte.toNat 2)],
          performStore core org (if parts.isEmpty then bs else bs.filter fun b => !s.away core own b) (k parts.length)]

/-- The ROWID of no row: a store from outside the rows has no own row. -/
def noRow : Nat := 512

/-! ### Taking a trap (R340, R342, R343, R346) -/

/-- The precise fields of ERRWORD (R343). -/
structure Precise where
  tvalid : Bool
  tidx : Nat
  tpass : Nat
  twe : Bool
  deriving DecidableEq, Repr

/-- A newly trapped row is reported in TRAPST (R346). -/
def reportTrap (core rid code : Nat) : Act :=
  .get fun s =>
    let f := s.tenant core rid
    let t := s.bar f 0x70 8
    .all [if bit t 0 then putLe (Space.bar f 0x70) 8 (t - bits t 1 1 * 2 + 2)
          else putLe (Space.bar f 0x70) 8 (code % 65536 * 2 ^ 48 + s.gangId core rid * 2 ^ 32 + core % 256 * 2 ^ 24
            + rid % 512 * 2 ^ 15 + bits t 1 1 * 2 + 1),
          msix f 3]

/-- Write TRAPSAVE and the precise fields of ERRWORD (R340 step 1, R343). -/
def saveTrap (core rid code spc : Nat) (p : Precise) : Act :=
  .get fun s =>
    let e := s.errword core rid
    let e' := if p.tvalid then
        e - bits e 12 2 * 4 + 0x1000 + p.tidx % 32 * 128 + p.tpass % 16 * 8 + (if p.twe then 4 else 0)
      else e - bits e 12 12 * 0x1000
    .all [putRow core rid 0x64 4 spc, putRow core rid 0x68 2 code, putRow core rid 0x58 8 e']

/-- Take a trap at a boundary: TRAPSAVE and ERRWORD are written, then the row goes to its handler and stays open, or, with
no handler or on a double trap, becomes trapped with PC = SPC and is reported. -/
def takeTrap (core rid code spc : Nat) (p : Precise) (double : Bool) : Act :=
  .all [saveTrap core rid code spc p,
        .get fun s =>
          if double then
            .all [putBits (rowKey core rid 0x58) 8 46 46 1, setPc core rid spc, setCode core rid 5,
                  reportTrap core rid code]
          else if s.trappc core rid ≠ 0 then setPc core rid (s.trappc core rid)
          else .all [setPc core rid spc, setCode core rid 5, reportTrap core rid code]]

end Sys2Proof.Machine
end

