-- ==== Sys2Proof/Machine/Flags.lean ====
section
/-!
DEFINITION. The floating-point flags (R55, R170 to R174): their union, their place in FPCTL and FLAGSUM, and how a commit
ORs them into both.
-/

namespace Sys2Proof.Machine

namespace Flags

def none : Flags := {}
def invalid : Flags := { nv := true }
def divZero : Flags := { dz := true }
def inexact : Flags := { nx := true }
def overflow : Flags := { ov := true, nx := true }
def underflow : Flags := { uf := true, nx := true }

/-- The flags of a block instance are the OR of those of its instructions and lanes (R171). -/
def or (a b : Flags) : Flags :=
  { nv := a.nv || b.nv, dz := a.dz || b.dz, ov := a.ov || b.ov, uf := a.uf || b.uf, nx := a.nx || b.nx }

def orAll (l : List Flags) : Flags := l.foldr or none

/-- The flag bits [12:8] of FPCTL and FLAGSUM: NV DZ OF UF NX (R55, R172). -/
def toBits (f : Flags) : Nat :=
  f.nv.toNat * 0x1000 + f.dz.toNat * 0x800 + f.ov.toNat * 0x400 + f.uf.toNat * 0x200 + f.nx.toNat * 0x100

/-- The flags of an FPCTL or FLAGSUM value. -/
def ofBits (x : Nat) : Flags := { nv := bit x 12, dz := bit x 11, ov := bit x 10, uf := bit x 9, nx := bit x 8 }

/-- W1C: a write of 1 clears a flag (R172). -/
def clearBy (f g : Flags) : Flags :=
  { nv := f.nv && !g.nv, dz := f.dz && !g.dz, ov := f.ov && !g.ov, uf := f.uf && !g.uf, nx := f.nx && !g.nx }

end Flags

/-- A commit ORs its flags into FPCTL and into its cluster's FLAGSUM as one event (R71, R171, R173). -/
def commitFlags (core rid : Nat) (f : Flags) : Act :=
  .get fun s =>
    let x := s.rowLe core rid 0x10 8
    .all [putRow core rid 0x10 8 (x - bits x 12 8 * 0x100 + (Flags.or (Flags.ofBits x) f).toBits),
          modCluster (clusterOf core) fun c =>
            { c with flagsum := Flags.or c.flagsum f,
                     recent := if c.recentAt = s.cycle then Flags.or c.recent f else f, recentAt := s.cycle }]

/-- A CTLWR of FLAGSUM (R172, R173): it clears bits, but not those that a commit of the same last cycle sets. -/
def clearFlagsum (cluster v : Nat) : Act :=
  .get fun s => modCluster cluster fun c =>
    { c with flagsum := Flags.or (Flags.clearBy c.flagsum (Flags.ofBits v))
               (if c.recentAt = s.cycle then c.recent else Flags.none) }

end Sys2Proof.Machine
end

