-- ==== Sys2Proof/Machine/Numbers.lean ====
section
/-!
DEFINITION. Number formats and exact arithmetic (R155 to R180): values as exact fractions, the one rounding of each
result, DM8, conversions, the special functions and the random words.
-/

namespace Sys2Proof.Machine

/-- The value of a floating-point operand: a signed fraction, an infinity or a NaN (R156). -/
inductive Val where
  | fin (neg : Bool) (num den : Nat)
  | inf (neg : Bool)
  | nan (signalling : Bool)
  deriving DecidableEq, Repr

/-- Rounding modes (R165). -/
inductive Rm where
  | rne | rtz | rup | rdn | srne
  deriving DecidableEq, Repr

/-- The mode of an X field; X = 0b00 takes the row's RM (R165). -/
def rmOf (x : XMode) (rowRm : Nat) : Rm :=
  match x with
  | .rne => .rne
  | .rtz => .rtz
  | .srne => .srne
  | .row => match rowRm with | 0 => .rne | 1 => .rtz | 2 => .rup | _ => .rdn

/-- The formats of R155. -/
structure Fmt where
  ebits : Nat
  mbits : Nat
  bias : Nat
  maxCode : Nat        -- the largest finite magnitude code
  infCode : Option Nat
  nanCode : Option Nat
  deriving DecidableEq, Repr

def Fmt.fp32 : Fmt := ⟨8, 23, 127, 0x7F7FFFFF, some 0x7F800000, some 0x7FC00000⟩
def Fmt.fp16 : Fmt := ⟨5, 10, 15, 0x7BFF, some 0x7C00, some 0x7E00⟩
def Fmt.bf16 : Fmt := ⟨8, 7, 127, 0x7F7F, some 0x7F80, some 0x7FC0⟩
def Fmt.e4m3 : Fmt := ⟨4, 3, 7, 0x7E, none, some 0x7F⟩
def Fmt.e5m2 : Fmt := ⟨5, 2, 15, 0x7B, some 0x7C, some 0x7E⟩
def Fmt.e2m1 : Fmt := ⟨2, 1, 1, 0x7, none, none⟩

/-- Width in bits. -/
def Fmt.width (f : Fmt) : Nat := 1 + f.ebits + f.mbits

/-- 2^e for an integer exponent, as a fraction. -/
def pow2 (e : Int) : Nat × Nat := if 0 ≤ e then (2 ^ e.toNat, 1) else (1, 2 ^ (-e).toNat)

namespace Val

def zero (neg : Bool) : Val := .fin neg 0 1

/-- num/den × 2^e. -/
def scaled (neg : Bool) (num den : Nat) (e : Int) : Val :=
  let p := pow2 e
  .fin neg (num * p.1) (den * p.2)

def isZero : Val → Bool
  | .fin _ n _ => n == 0
  | _ => false

def isNan : Val → Bool
  | .nan _ => true
  | _ => false

def isSnan : Val → Bool
  | .nan b => b
  | _ => false

def isInf : Val → Bool
  | .inf _ => true
  | _ => false

def neg? : Val → Bool
  | .fin b _ _ => b
  | .inf b => b
  | .nan _ => false

/-- The value with its sign reversed. -/
def negate : Val → Val
  | .fin b n d => .fin (!b) n d
  | .inf b => .inf (!b)
  | .nan b => .nan b

def ofInt (i : Int) : Val := .fin (decide (i < 0)) i.natAbs 1

/-- Comparison of two values that are not NaN: -0 equals +0 (R220). -/
def lt (a b : Val) : Bool :=
  match a, b with
  | .nan _, _ => false
  | _, .nan _ => false
  | .inf x, .inf y => x && !y
  | .inf x, .fin .. => x
  | .fin .., .inf y => !y
  | .fin x n d, .fin y m e =>
    let l : Int := (if x then -1 else 1) * (n * e : Int)
    let r : Int := (if y then -1 else 1) * (m * d : Int)
    decide (l < r)

def eq (a b : Val) : Bool := !a.isNan && !b.isNan && !lt a b && !lt b a

end Val

/-- The value of an encoding (R156). A NaN whose top M bit is 0 is signalling, but for E4M3, whose NaN counts as quiet. -/
def Fmt.decode (f : Fmt) (x : Nat) : Val :=
  let neg := bit x (f.width - 1)
  let mag := x % 2 ^ (f.width - 1)
  let e := mag / 2 ^ f.mbits
  let m := mag % 2 ^ f.mbits
  if some mag = f.infCode then .inf neg
  else if f.maxCode < mag then .nan (f.infCode.isSome && !bit m (f.mbits - 1))
  else if e = 0 then Val.scaled neg m 1 (1 - (f.bias : Int) - f.mbits)
  else Val.scaled neg (2 ^ f.mbits + m) 1 ((e : Int) - f.bias - f.mbits)

/-- Whether a discarded fraction r/d of a magnitude rounds it up; `odd` is the last kept bit (R165). -/
def roundsUp (m : Rm) (neg odd : Bool) (r d : Nat) : Bool :=
  match m with
  | .rne | .srne => d < 2 * r || (2 * r == d && odd)
  | .rtz => false
  | .rup => !neg && r != 0
  | .rdn => neg && r != 0

/-- The nearest integers to num/den under a mode: result and whether it is inexact. -/
def roundFrac (m : Rm) (neg : Bool) (num den : Nat) : Nat × Bool :=
  let q := num / den
  let r := num % den
  (if roundsUp m neg (q % 2 == 1) r den then q + 1 else q, r != 0)

/-- ⌊log₂(num/den)⌋ of a positive fraction. -/
def floorLog2 (num den : Nat) : Int :=
  let e : Int := (Nat.log2 num : Int) - Nat.log2 den
  let p := pow2 e
  if num * p.2 < den * p.1 then e - 1 else e

/-- Whether an overflow rounds to infinity in a mode (R166). -/
def overflowsToInf (m : Rm) (neg : Bool) : Bool :=
  match m with
  | .rne => true
  | .rtz => false
  | .rup => !neg
  | .rdn => neg
  | .srne => false

/-- The overflow result of R166. -/
def Fmt.overflow (f : Fmt) (m : Rm) (neg : Bool) : Nat :=
  let sign := if neg then 2 ^ (f.width - 1) else 0
  if overflowsToInf m neg then
    match f.infCode, f.nanCode with
    | some c, _ => sign + c
    | none, some n => n
    | none, none => sign + f.maxCode
  else sign + f.maxCode

/-- The one rounding of an exact value to a format (R165, R166, R170, R229): encoding and flags. -/
def Fmt.round (f : Fmt) (m : Rm) (v : Val) : Nat × Flags :=
  match v with
  | .nan s =>
    match f.nanCode with
    | some c => (c, if s then Flags.invalid else Flags.none)
    | none => (0, Flags.invalid)
  | .inf neg =>
    let sign := if neg then 2 ^ (f.width - 1) else 0
    match f.infCode, f.nanCode with
    | some c, _ => (sign + c, Flags.none)
    | none, some n => (if m = .srne then sign + f.maxCode else n, Flags.invalid)
    | none, none => (sign + f.maxCode, Flags.invalid)
  | .fin neg num den =>
    let sign := if neg then 2 ^ (f.width - 1) else 0
    if num = 0 then (sign, Flags.none)
    else
      let e := floorLog2 num den
      let emin : Int := 1 - f.bias
      let q := max e emin - f.mbits
      let p := pow2 q
      let (sig, inex) := roundFrac m neg (num * p.2) (den * p.1)
      let pu := pow2 (e - f.mbits)
      let sigU := (roundFrac m neg (num * pu.2) (den * pu.1)).1
      let tiny := decide (e < emin) && !(sigU == 2 ^ (f.mbits + 1) && decide (e + 1 = emin))
      -- the magnitude code of sig × 2^q: codes rise with values, so a carry moves into the exponent by itself
      let code := if sig < 2 ^ f.mbits then sig else (q + f.mbits + f.bias - 1).toNat * 2 ^ f.mbits + sig
      if f.maxCode < code then (f.overflow m neg, Flags.overflow)
      else (sign + code, { uf := tiny && inex, nx := inex })

/-! ### DM8 (R159 to R162) -/

/-- Length of the run of bits equal to `b` from bit `n - 1` of m downward. -/
def runLength (m : Nat) (b : Bool) : Nat → Nat
  | 0 => 0
  | n + 1 => if bit m n == b then 1 + runLength m b n else 0

/-- The exact magnitude of a positive DM8 code 0x01 to 0x7F (R159). -/
def dm8Mag (m : Nat) : Nat × Nat :=
  let b := bit m 6
  let k := runLength m b 7
  let n := 6 - k
  let fr := if k < 7 then m % 2 ^ n else 0
  let n := if k < 7 then n else 0
  if b then ((2 ^ n + 9 * fr) * 10 ^ (k - 1), 2 ^ n) else (2 ^ n + 9 * fr, 2 ^ n * 10 ^ k)

/-- The exact value of a DM8 code (R159). -/
def dm8Exact (x : Nat) : Val :=
  if x % 256 = 0 then .zero false
  else if x % 256 = 0x80 then .nan false
  else let m := dm8Mag (x % 128)
    .fin (bit x 7) m.1 m.2

/-- Widening a DM8 code to FP32 (R161): the nearest FP32 value, with no flag. -/
def dm8Widen (x : Nat) : Val := Fmt.fp32.decode (Fmt.fp32.round .rne (dm8Exact x)).1

/-- Count the positive codes from 1 up whose value is at most num/den. -/
def dm8Count (num den : Nat) : Nat → Nat
  | 0 => 0
  | n + 1 =>
    let m := dm8Mag (n + 1)
    if m.1 * den ≤ num * m.2 then n + 1 else dm8Count num den n

/-- Rounding a value to DM8 (R162). -/
def dm8Round (v : Val) : Nat × Flags :=
  match v with
  | .nan s => (0x80, if s then Flags.invalid else Flags.none)
  | .inf neg => (if neg then 0xFF else 0x7F, Flags.invalid)
  | .fin neg num den =>
    let sign := if neg then 0x80 else 0
    if num = 0 then (0, Flags.none)
    else if 1000000 * den < num then (sign + 0x7F, Flags.overflow)
    else if num * 1000000 < den then
      (if num * 2000000 ≤ den then 0 else sign + 1, Flags.underflow)
    else
      let c := dm8Count num den 0x7F
      let lo := dm8Mag c
      if lo.1 * den = num * lo.2 then (sign + c, Flags.none)
      else
        let hi := dm8Mag (c + 1)
        -- compare v - lo with hi - v, all over the common denominator
        let a := (num * lo.2 - lo.1 * den) * hi.2
        let b := (hi.1 * den - num * hi.2) * lo.2
        (sign + (if a < b then c else if b < a then c + 1 else if c % 2 = 0 then c else c + 1), Flags.inexact)

/-! ### Lane types -/

/-- The format of a floating-point lane type other than DM8. -/
def laneFmt : LaneType → Fmt
  | .fp16x2 => .fp16 | .bf16x2 => .bf16 | .e4m3x4 => .e4m3 | .e5m2x4 => .e5m2 | .e2m1x8 => .e2m1 | _ => .fp32

/-- The value an element takes part with: DM8 by its FP32 image (R161, R169), the others exactly. -/
def laneValue (t : LaneType) (x : Nat) : Val :=
  if t = .dm8x4 then dm8Widen x else (laneFmt t).decode x

/-- The integer value of an element of an integer type (R158). -/
def laneInt (t : LaneType) (x : Nat) : Int :=
  if t.isSigned then signed t.width x else ((x % 2 ^ t.width : Nat) : Int)

/-- Round a value to an element of a floating-point type (R162, R165, R166, R229). -/
def laneRound (t : LaneType) (m : Rm) (v : Val) : Nat × Flags :=
  if t = .dm8x4 then dm8Round v else (laneFmt t).round m v

/-- An exact result rounded to an element, with its flags. Under saturating RNE an infinity that finite operands gave, which is a
division by zero, becomes the largest finite value (R165, log 25). -/
def laneResult (t : LaneType) (m : Rm) (v : Val × Flags) : Nat × Flags :=
  let r := laneRound t m v.1
  match v.1 with
  | .inf neg =>
    if m = .srne ∧ v.2.dz = true ∧ t ≠ .dm8x4 ∧ (laneFmt t).infCode.isSome then
      ((if neg then 2 ^ ((laneFmt t).width - 1) else 0) + (laneFmt t).maxCode, v.2)
    else (r.1, Flags.or v.2 r.2)
  | _ => (r.1, Flags.or v.2 r.2)

/-- Least and greatest integer of a type (R168). -/
def intMin (t : LaneType) : Int := if t.isSigned then -(2 ^ (t.width - 1)) else 0
def intMax (t : LaneType) : Int :=
  if t.isSigned then 2 ^ (t.width - 1) - 1 else 2 ^ t.width - 1

/-- Wrap or saturate an exact integer (R168). -/
def laneWrap (t : LaneType) (sat : Bool) (i : Int) : Nat :=
  wrap t.width (if sat then max (intMin t) (min (intMax t) i) else i)

/-- Round a value to an integer type (R167): mode, saturation and flags. -/
def laneToInt (t : LaneType) (m : Rm) (v : Val) : Nat × Flags :=
  match v with
  | .nan _ => (0, Flags.invalid)
  | .inf neg => (wrap t.width (if neg then intMin t else intMax t), Flags.invalid)
  | .fin neg num den =>
    let (q, inex) := roundFrac m neg num den
    let i : Int := if neg then -(q : Int) else q
    if i < intMin t then (wrap t.width (intMin t), Flags.invalid)
    else if intMax t < i then (wrap t.width (intMax t), Flags.invalid)
    else (wrap t.width i, if inex then Flags.inexact else Flags.none)

/-! ### Exact operations -/

/-- The exact product; 0 × ∞ is invalid (R234). -/
def Val.mul (a b : Val) : Val × Flags :=
  match a, b with
  | .nan s, y => (.nan false, if s || y.isSnan then Flags.invalid else Flags.none)
  | _, .nan s => (.nan false, if s then Flags.invalid else Flags.none)
  | .inf x, .inf y => (.inf (x != y), Flags.none)
  | .inf x, .fin y n _ => if n = 0 then (.nan false, Flags.invalid) else (.inf (x != y), Flags.none)
  | .fin x n _, .inf y => if n = 0 then (.nan false, Flags.invalid) else (.inf (x != y), Flags.none)
  | .fin x n d, .fin y m e => (.fin (x != y) (n * m) (d * e), Flags.none)

/-- The exact sum of two finite values, as numerator and denominator. -/
def sumFrac (a b : Int × Nat) : Int × Nat := (a.1 * b.2 + b.1 * a.2, a.2 * b.2)

def Val.frac : Val → Int × Nat
  | .fin neg n d => (if neg then -(n : Int) else n, d)
  | _ => (0, 1)

/-- One exact IEEE sum over addends (R234, R236). An exact zero sum is -0 where every addend is -0, else -0 under RDN and
+0 in every other mode. -/
def sumVals (m : Rm) (l : List Val) : Val × Flags :=
  let nanIn := l.any Val.isNan
  let snan := l.any Val.isSnan
  let pinf := l.any fun v => v == .inf false
  let ninf := l.any fun v => v == .inf true
  if nanIn then (.nan false, if snan then Flags.invalid else Flags.none)
  else if pinf && ninf then (.nan false, Flags.invalid)
  else if pinf then (.inf false, Flags.none)
  else if ninf then (.inf true, Flags.none)
  else
    let s := l.foldl (fun acc v => sumFrac acc v.frac) (0, 1)
    if s.1 = 0 then (.zero (l.all Val.neg? || m == .rdn), Flags.none)
    else (.fin (decide (s.1 < 0)) s.1.natAbs s.2, Flags.none)

/-- a × b + c, exactly (R234): 0 × ∞ is invalid even when c is a quiet NaN. -/
def Val.fma (m : Rm) (a b c : Val) : Val × Flags :=
  let (p, f) := a.mul b
  let (r, g) := sumVals m [p, c]
  (r, f.or g)

/-- The exact quotient (R177, R179): x / 0 raises DZ, 0 / 0 and ∞ / ∞ are invalid. -/
def Val.div (a b : Val) : Val × Flags :=
  match a, b with
  | .nan s, y => (.nan false, if s || y.isSnan then Flags.invalid else Flags.none)
  | _, .nan s => (.nan false, if s then Flags.invalid else Flags.none)
  | .inf _, .inf _ => (.nan false, Flags.invalid)
  | .inf x, .fin y _ _ => (.inf (x != y), Flags.none)
  | .fin x _ _, .inf y => (.zero (x != y), Flags.none)
  | .fin x n d, .fin y m e =>
    if m = 0 then (if n = 0 then (.nan false, Flags.invalid) else (.inf (x != y), Flags.divZero))
    else (.fin (x != y) (n * e) (d * m), Flags.none)

/-- ⌊√n⌋, bit by bit from bit `k - 1` down. -/
def isqrtFrom (n : Nat) : Nat → Nat → Nat
  | 0, r => r
  | k + 1, r => isqrtFrom n k (if (r + 2 ^ k) * (r + 2 ^ k) ≤ n then r + 2 ^ k else r)

/-- A fraction that rounds in every mode of FP32 as √(num/den) does: 128 fraction bits and a sticky half. -/
def sqrtFrac (num den : Nat) : Nat × Nat :=
  let n := num * 2 ^ 256 / den
  let r := isqrtFrom n (Nat.log2 n / 2 + 1) 0
  if r * r * den = num * 2 ^ 256 then (r, 2 ^ 128) else (2 * r + 1, 2 ^ 129)

/-- √a (R178, R179). -/
def Val.sqrt (a : Val) : Val × Flags :=
  match a with
  | .nan s => (.nan false, if s then Flags.invalid else Flags.none)
  | .inf neg => if neg then (.nan false, Flags.invalid) else (.inf false, Flags.none)
  | .fin neg n d =>
    if n = 0 then (.zero neg, Flags.none)
    else if neg then (.nan false, Flags.invalid)
    else let r := sqrtFrac n d
      (.fin false r.1 r.2, Flags.none)

/-- minimumNumber and maximumNumber (R234): -0 is less than +0; a NaN beside a number yields the number. Answers the
encoding of the chosen operand. -/
def minMaxNum (isMax : Bool) (nanCode : Nat) (va vb : Val) (xa xb : Nat) : Nat × Flags :=
  let f := if va.isSnan || vb.isSnan then Flags.invalid else Flags.none
  if va.isNan && vb.isNan then (nanCode, f)
  else if va.isNan then (xb, f)
  else if vb.isNan then (xa, f)
  else
    let less (a b : Val) : Bool := a.lt b || (a.isZero && b.isZero && a.neg? && !b.neg?)
    (if isMax then (if less va vb then xb else xa) else (if less vb va then xb else xa), f)

/-! ### Special functions (R178, R179) -/

/-- The spacing of FP32 values at a positive exact result, as an exponent of 2 (R178). -/
def ulpExp (num den : Nat) : Int := max (floorLog2 num den) (-126) - 23

/-- ln 2 to 200 fraction bits, rounded down. -/
def ln2Fix : Nat := 1113844574712631719546256151097547306333272293549090750737802

/-- Lower bound of e^x - 1 scaled by 2^200 for x = n/2^200 below 1: the Taylor terms from the i-th on, rounded down. -/
def expTail (x : Nat) : Nat → Nat → Nat → Nat
  | 0, _, _ => 0
  | k + 1, i, term =>
    let t := term * x / 2 ^ 200 / i
    t + expTail x k (i + 1) t

/-- 2^(k/2^200) for 0 ≤ k < 2^200, scaled by 2^200, within 2^-180: a lower bound. -/
def exp2Low (k : Nat) : Nat := 2 ^ 200 + expTail (k * ln2Fix / 2 ^ 200) 60 1 (2 ^ 200)

/-- Bounds of 2^a for a finite a, as fractions: lower and upper. -/
def exp2Bounds (a : Int × Nat) : (Nat × Nat) × (Nat × Nat) :=
  let n := a.1.fdiv a.2
  let k := ((a.1 - n * a.2).toNat * 2 ^ 200) / a.2
  let lo := exp2Low k
  let p := pow2 n
  ((lo * p.1, 2 ^ 200 * p.2), ((lo + 2 ^ 20) * p.1, 2 ^ 200 * p.2))

/-- log₂ of a fraction in [1, 2), to `k` fraction bits, by repeated squaring of a 260-bit fixed-point number. -/
def log2Bits : Nat → Nat → Nat
  | 0, _ => 0
  | k + 1, y =>
    let z := y * y / 2 ^ 260
    if 2 ^ 261 ≤ z then 2 ^ k + log2Bits k (z / 2) else log2Bits k z

/-- An approximation of log₂(num/den): numerator over 2^90. -/
def log2Approx (num den : Nat) : Int :=
  let e := floorLog2 num den
  let p := pow2 e
  let y := num * p.2 * 2 ^ 260 / (den * p.1)
  e * 2 ^ 90 + log2Bits 90 y

/-- |x - y| ≤ 2^e for positive fractions. -/
def within (x y : Nat × Nat) (e : Int) : Bool :=
  let p := pow2 e
  let a := x.1 * y.2
  let b := y.1 * x.2
  (if a ≤ b then b - a else a - b) * p.2 ≤ p.1 * (x.2 * y.2)

/-- A positive finite FP32 encoding as a fraction. -/
def fracOf (x : Nat) : Option (Nat × Nat) :=
  match Fmt.fp32.decode x with
  | .fin false n d => some (n, d)
  | _ => none

/-- VRCP of a nonzero finite magnitude: bits within 1 ulp of 1/a that the spec leaves open (log 20). -/
def rcpMag (num den arg : Nat) : Nat × Flags :=
  let near := Fmt.fp32.round .rne (.fin false den num)
  if near.2.nx = false ∨ near.2.ov then near
  else
    let c := Config.special 0 arg % 2 ^ 31
    match fracOf c with
    | some r => if within r (den, num) (ulpExp den num) then (c, { nx := true, uf := near.2.uf }) else near
    | none => near

/-- VRSQ of a positive finite value: within 1 ulp of 1/√a (log 20). -/
def rsqMag (num den arg : Nat) : Nat × Flags :=
  let q := sqrtFrac den num
  let near := Fmt.fp32.round .rne (.fin false q.1 q.2)
  if near.2.nx = false then near
  else
    let c := Config.special 1 arg % 2 ^ 31
    match fracOf c with
    | some r => if within r q (ulpExp q.1 q.2) then (c, Flags.inexact) else near
    | none => near

/-- VEXP2 of a finite value: exact where 2^a is an FP32 value, else within 2 ulp of 2^a (log 20). Every operand below -300
stands for one: its power is far below half the least subnormal. -/
def exp2Val (a : Int × Nat) (arg : Nat) : Nat × Flags :=
  if 128 * (a.2 : Int) ≤ a.1 then (0x7F800000, Flags.overflow)
  else if a.1 % a.2 = 0 ∧ -149 * (a.2 : Int) ≤ a.1 then
    let p := pow2 (a.1 / a.2)
    Fmt.fp32.round .rne (.fin false p.1 p.2)
  else
    let b := exp2Bounds (if a.1 < -300 * (a.2 : Int) then (-300, 1) else a)
    let near := Fmt.fp32.round .rne (.fin false b.1.1 b.1.2)
    if near.2.ov then near
    else
      let c := Config.special 2 arg % 2 ^ 31
      let e := ulpExp b.1.1 b.1.2 + 1
      let fl : Flags := { nx := true, uf := near.2.uf }
      match fracOf c with
      | some r => if within r b.1 e && within r b.2 e then (c, fl) else (near.1, fl)
      | none => (near.1, fl)

/-- VLOG2 of a positive finite value: exact for powers of two, else within 2 ulp of log₂ a (log 20). -/
def log2Val (num den arg : Nat) : Nat × Flags :=
  let l := log2Approx num den
  let near := Fmt.fp32.round .rne (if l = 0 then Val.zero false else .fin (decide (l < 0)) l.natAbs (2 ^ 90))
  let e := floorLog2 num den
  let p := pow2 e
  if num * p.2 = den * p.1 then Fmt.fp32.round .rne (Val.ofInt e)
  else
    let c := Config.special 3 arg % 2 ^ 32
    match Fmt.fp32.decode c with
    | .fin neg n d =>
      if neg = decide (l < 0) && within (n, d) (l.natAbs, 2 ^ 90) (ulpExp l.natAbs (2 ^ 90) + 1) then (c, Flags.inexact)
      else (near.1, Flags.inexact)
    | _ => (near.1, Flags.inexact)

/-- The FP32 special functions of one operand (R178, R179), by number: 0 VRCP, 1 VRSQ, 2 VEXP2, 3 VLOG2. -/
def specialFn (fn x : Nat) : Nat × Flags :=
  let nan := Fmt.fp32.nanCode.getD 0
  match Fmt.fp32.decode x with
  | .nan s => (nan, if s then Flags.invalid else Flags.none)
  | .inf neg =>
    match fn with
    | 0 => (if neg then 0x80000000 else 0, Flags.none)
    | 1 => if neg then (nan, Flags.invalid) else (0, Flags.none)
    | 2 => (if neg then 0 else 0x7F800000, Flags.none)
    | _ => if neg then (nan, Flags.invalid) else (0x7F800000, Flags.none)
  | .fin neg n d =>
    let sign := if neg then 0x80000000 else 0
    match fn with
    | 0 => if n = 0 then (sign + 0x7F800000, Flags.divZero)
           else let r := rcpMag n d x
             (sign + r.1, r.2)
    | 1 => if n = 0 then (sign + 0x7F800000, Flags.divZero) else if neg then (nan, Flags.invalid) else rsqMag n d x
    | 2 => if n = 0 then (0x3F800000, Flags.none) else exp2Val (if neg then -(n : Int) else n, d) x
    | _ => if n = 0 then (0xFF800000, Flags.divZero) else if neg then (nan, Flags.invalid) else log2Val n d x

/-! ### Random words (R180) -/

def rotl32 (x n : Nat) : Nat := (x * 2 ^ n % 2 ^ 32) ||| (x / 2 ^ (32 - n))

/-- Ten rounds of the generator from round `r` on: x0 to x3. -/
def randRounds (key : Nat) : Nat → Nat → Nat → Nat → Nat → Nat → Nat
  | 0, _, x0, _, x2, _ => (x0 + rotl32 x2 16) % 2 ^ 32
  | k + 1, r, x0, x1, x2, x3 =>
    let q := (key + r * 0x6A1C53E9) % 2 ^ 32
    let x0 := (x0 + x1 + q) % 2 ^ 32
    let x1 := rotl32 x1 7 ^^^ x0
    let x2 := (x2 + x3 + (q ^^^ 0xC3A50F96)) % 2 ^ 32
    let x3 := rotl32 x3 11 ^^^ x2
    randRounds key k (r + 1) x0 x3 x2 x1

/-- RandWord(K, C, L) with C = (CSEED, GROW, operand) (R180). -/
def randWord (key cseed grow operand lane : Nat) : Nat :=
  randRounds key 10 0 ((operand % 2 ^ 32) ^^^ lane) (operand / 2 ^ 32 % 2 ^ 32) (grow % 2 ^ 32) (cseed % 2 ^ 32)

end Sys2Proof.Machine
end

