-- ==== Sys2Proof/Machine/Operands.lean ====
section
/-!
DEFINITION. Operand forms: which slots an instruction uses and what its result is (R191, R205, R226, R273), the value of a
slot (R189), tokens as lanes and elements (R163, R164), predicates (R191) and the firing that every token instruction
shares (R67, R68, R191, R374).
-/

namespace Sys2Proof.Machine

/-- The kind of an instruction's result (R191): none, a scalar, a vector, the kind of its operands; `store` has no result
but accepts a vector predicate (R273). -/
inductive ResKind where
  | none | scalar | vector | follows | store
  deriving DecidableEq, Repr

/-- What an instruction uses and delivers. A slot is `none` when unused, `some true` when it accepts a vector. -/
structure Shape where
  a : Option Bool := .none
  b : Option Bool := .none
  c : Option Bool := .none
  t0 : Option Target := .none
  t1 : Option Target := .none
  p : Pred := .always
  lsid : Option Nat := .none
  res : ResKind := .none
  lat : Nat := 4
  isExit : Bool := false
  special : Bool := false
  deriving DecidableEq, Repr

/-- The shape of a step: it is no instruction of a block. -/
def Shape.step : Shape := {}

/-- The slots, targets, result and latency of each instruction, as its description gives them. -/
def shape : Instr → Shape
  | .br _ p => { p := p, isExit := true }
  | .brx p => { a := some false, p := p, isExit := true }
  | .call _ p => { p := p, isExit := true }
  | .loop _ p => { a := some false, p := p, isExit := true }
  | .endl p => { p := p, isExit := true }
  | .brkl _ p => { p := p, isExit := true }
  | .waitb _ p => { a := some false, b := some false, p := p, isExit := true }
  | .waite _ p => { a := some false, p := p, isExit := true }
  | .waitqr _ p => { a := some false, p := p, isExit := true }
  | .waitqd _ p => { a := some false, p := p, isExit := true }
  | .yield _ p => { p := p, isExit := true }
  | .halt _ p => { p := p, isExit := true }
  | .trap _ p => { p := p, isExit := true }
  | .efence _ p => { p := p, isExit := true }
  | .splice p => { p := p, isExit := true }
  | .forkr _ p => { a := some false, b := some false, c := some false, p := p, isExit := true }
  | .movi _ t0 => { t0 := some t0, res := .scalar }
  | .movih _ t0 => { a := some false, t0 := some t0, res := .scalar }
  | .mov t1 t0 p _ => { a := some true, t0 := some t0, t1 := some t1, p := p, res := .follows }
  | .mov_F16 t0 _ => { a := some true, t0 := some t0, res := .follows }
  | .teq t1 t0 p t => { a := some (!(t).isScalar), b := some (!(t).isScalar), t0 := some t0, t1 := some t1, p := p, res := (if (t).isScalar then .scalar else .vector) }
  | .teq_F16 t0 st => { a := some (!(st.lane).isScalar), b := some (!(st.lane).isScalar), t0 := some t0, res := (if (st.lane).isScalar then .scalar else .vector) }
  | .tne t1 t0 p t => { a := some (!(t).isScalar), b := some (!(t).isScalar), t0 := some t0, t1 := some t1, p := p, res := (if (t).isScalar then .scalar else .vector) }
  | .tlt t1 t0 p t => { a := some (!(t).isScalar), b := some (!(t).isScalar), t0 := some t0, t1 := some t1, p := p, res := (if (t).isScalar then .scalar else .vector) }
  | .tlt_F16 t0 st => { a := some (!(st.lane).isScalar), b := some (!(st.lane).isScalar), t0 := some t0, res := (if (st.lane).isScalar then .scalar else .vector) }
  | .tle t1 t0 p t => { a := some (!(t).isScalar), b := some (!(t).isScalar), t0 := some t0, t1 := some t1, p := p, res := (if (t).isScalar then .scalar else .vector) }
  | .sel t1 t0 p t => { a := some (!(t).isScalar), b := some (!(t).isScalar), c := some (!(t).isScalar), t0 := some t0, t1 := some t1, p := p, res := (if (t).isScalar then .scalar else .vector) }
  | .sel_F16 t0 st => { a := some (!(st.lane).isScalar), b := some (!(st.lane).isScalar), c := some (!(st.lane).isScalar), t0 := some t0, res := (if (st.lane).isScalar then .scalar else .vector) }
  | .pand t1 t0 p => { a := some true, b := some true, t0 := some t0, t1 := some t1, p := p, res := .follows }
  | .por t1 t0 p => { a := some true, b := some true, t0 := some t0, t1 := some t1, p := p, res := .follows }
  | .pnot t1 t0 p => { a := some true, t0 := some t0, t1 := some t1, p := p, res := .follows }
  | .anyl t1 t0 p => { a := some true, t0 := some t0, t1 := some t1, p := p, res := .scalar }
  | .alll t1 t0 p => { a := some true, t0 := some t0, t1 := some t1, p := p, res := .scalar }
  | .adds _ t1 t0 p _ => { a := some false, b := some false, t0 := some t0, t1 := some t1, p := p, res := .scalar }
  | .subs _ t1 t0 p _ => { a := some false, b := some false, t0 := some t0, t1 := some t1, p := p, res := .scalar }
  | .muls _ t1 t0 p _ => { a := some false, b := some false, t0 := some t0, t1 := some t1, p := p, res := .scalar }
  | .mulhs t1 t0 p _ => { a := some false, b := some false, t0 := some t0, t1 := some t1, p := p, res := .scalar }
  | .divs _ t1 t0 p _ => { a := some false, b := some false, t0 := some t0, t1 := some t1, p := p, res := .scalar }
  | .rems t1 t0 p _ => { a := some false, b := some false, t0 := some t0, t1 := some t1, p := p, res := .scalar }
  | .ands t1 t0 p _ => { a := some false, b := some false, t0 := some t0, t1 := some t1, p := p, res := .scalar }
  | .ors t1 t0 p _ => { a := some false, b := some false, t0 := some t0, t1 := some t1, p := p, res := .scalar }
  | .xors t1 t0 p _ => { a := some false, b := some false, t0 := some t0, t1 := some t1, p := p, res := .scalar }
  | .shls _ t1 t0 p _ => { a := some false, b := some false, t0 := some t0, t1 := some t1, p := p, res := .scalar }
  | .shrs t1 t0 p _ => { a := some false, b := some false, t0 := some t0, t1 := some t1, p := p, res := .scalar }
  | .addis _ t0 p _ => { a := some false, t0 := some t0, p := p, res := .scalar }
  | .andis _ t0 p _ => { a := some false, t0 := some t0, p := p, res := .scalar }
  | .shis _ t0 p _ => { a := some false, t0 := some t0, p := p, res := .scalar }
  | .clzs t1 t0 p => { a := some false, t0 := some t0, t1 := some t1, p := p, res := .scalar }
  | .ctzs t1 t0 p => { a := some false, t0 := some t0, t1 := some t1, p := p, res := .scalar }
  | .popcs t1 t0 p => { a := some false, t0 := some t0, t1 := some t1, p := p, res := .scalar }
  | .mins t1 t0 p _ => { a := some false, b := some false, t0 := some t0, t1 := some t1, p := p, res := .scalar }
  | .maxs t1 t0 p _ => { a := some false, b := some false, t0 := some t0, t1 := some t1, p := p, res := .scalar }
  | .vadd _ t1 t0 p _ => { a := some true, b := some true, t0 := some t0, t1 := some t1, p := p, res := .vector }
  | .vadd_F16 t0 _ => { a := some true, b := some true, t0 := some t0, res := .vector }
  | .vsub _ t1 t0 p _ => { a := some true, b := some true, t0 := some t0, t1 := some t1, p := p, res := .vector }
  | .vsub_F16 t0 _ => { a := some true, b := some true, t0 := some t0, res := .vector }
  | .vmul _ t1 t0 p _ => { a := some true, b := some true, t0 := some t0, t1 := some t1, p := p, res := .vector }
  | .vmul_F16 t0 _ => { a := some true, b := some true, t0 := some t0, res := .vector }
  | .vmulh t1 t0 p _ => { a := some true, b := some true, t0 := some t0, t1 := some t1, p := p, res := .vector }
  | .vfma _ t1 t0 p _ => { a := some true, b := some true, c := some true, t0 := some t0, t1 := some t1, p := p, res := .vector, lat := 6 }
  | .vfma_F16 t0 _ => { a := some true, b := some true, c := some true, t0 := some t0, res := .vector, lat := 6 }
  | .vmin t1 t0 p _ => { a := some true, b := some true, t0 := some t0, t1 := some t1, p := p, res := .vector }
  | .vmin_F16 t0 _ => { a := some true, b := some true, t0 := some t0, res := .vector }
  | .vmax t1 t0 p _ => { a := some true, b := some true, t0 := some t0, t1 := some t1, p := p, res := .vector }
  | .vmax_F16 t0 _ => { a := some true, b := some true, t0 := some t0, res := .vector }
  | .vand t1 t0 p _ => { a := some true, b := some true, t0 := some t0, t1 := some t1, p := p, res := .vector }
  | .vand_F16 t0 _ => { a := some true, b := some true, t0 := some t0, res := .vector }
  | .vor t1 t0 p _ => { a := some true, b := some true, t0 := some t0, t1 := some t1, p := p, res := .vector }
  | .vor_F16 t0 _ => { a := some true, b := some true, t0 := some t0, res := .vector }
  | .vxor t1 t0 p _ => { a := some true, b := some true, t0 := some t0, t1 := some t1, p := p, res := .vector }
  | .vxor_F16 t0 _ => { a := some true, b := some true, t0 := some t0, res := .vector }
  | .vshl _ t1 t0 p _ => { a := some true, b := some true, t0 := some t0, t1 := some t1, p := p, res := .vector }
  | .vshl_F16 t0 _ => { a := some true, b := some true, t0 := some t0, res := .vector }
  | .vshr t1 t0 p _ => { a := some true, b := some true, t0 := some t0, t1 := some t1, p := p, res := .vector }
  | .vshr_F16 t0 _ => { a := some true, b := some true, t0 := some t0, res := .vector }
  | .vaddi _ t0 p _ => { a := some true, t0 := some t0, p := p, res := .vector }
  | .vdot _ t1 t0 p _ => { a := some true, b := some true, c := some true, t0 := some t0, t1 := some t1, p := p, res := .vector, lat := 6 }
  | .vdot_F16 t0 _ => { a := some true, b := some true, c := some true, t0 := some t0, res := .vector, lat := 6 }
  | .vdiv _ t1 t0 p => { a := some true, b := some true, t0 := some t0, t1 := some t1, p := p, res := .vector, lat := 16, special := true }
  | .vsqrt _ t1 t0 p => { a := some true, t0 := some t0, t1 := some t1, p := p, res := .vector, lat := 16, special := true }
  | .vrcp t1 t0 p => { a := some true, t0 := some t0, t1 := some t1, p := p, res := .vector, lat := 16, special := true }
  | .vrsq t1 t0 p => { a := some true, t0 := some t0, t1 := some t1, p := p, res := .vector, lat := 16, special := true }
  | .vexp2 t1 t0 p => { a := some true, t0 := some t0, t1 := some t1, p := p, res := .vector, lat := 16, special := true }
  | .vlog2 t1 t0 p => { a := some true, t0 := some t0, t1 := some t1, p := p, res := .vector, lat := 16, special := true }
  | .vcvt _ _ t0 p _ => { a := some true, t0 := some t0, p := p, res := .vector }
  | .vcvts _ t1 t0 p _ => { a := some true, b := some false, c := some true, t0 := some t0, t1 := some t1, p := p, res := .vector, lat := 16, special := true }
  | .vpack _ t1 t0 p _ => { a := some true, b := some false, c := some true, t0 := some t0, t1 := some t1, p := p, res := .vector }
  | .vunpk t1 t0 p _ => { a := some true, b := some false, t0 := some t0, t1 := some t1, p := p, res := .vector }
  | .vrnd _ t0 p _ => { a := some true, t0 := some t0, p := p, res := .vector }
  | .vrand t1 t0 p _ => { a := some false, t0 := some t0, t1 := some t1, p := p, res := .vector, lat := 8 }
  | .vbce _ t0 p _ => { a := some true, t0 := some t0, p := p, res := .vector }
  | .vshuf t1 t0 p _ => { a := some true, b := some true, t0 := some t0, t1 := some t1, p := p, res := .vector, lat := 6 }
  | .vred _ t0 p _ => { a := some true, t0 := some t0, p := p, res := .scalar, lat := 12 }
  | .vscan _ t0 p _ => { a := some true, t0 := some t0, p := p, res := .vector, lat := 12 }
  | .vins t1 t0 p _ => { a := some true, b := some false, c := some false, t0 := some t0, t1 := some t1, p := p, res := .vector }
  | .vext t1 t0 p _ => { a := some true, b := some false, t0 := some t0, t1 := some t1, p := p, res := .scalar }
  | .vcmpr t1 t0 p u => { a := some true, b := some true, t0 := some t0, t1 := some t1, p := p, res := (if u then .scalar else .vector), lat := 6 }
  | .ldv lsid _ t0 p => { a := some false, t0 := some t0, p := p, lsid := some lsid.toNat, res := .vector, lat := 8 }
  | .stv lsid _ p => { a := some false, b := some true, p := p, lsid := some lsid.toNat, res := .store }
  | .lds lsid _ t0 p _ => { a := some false, t0 := some t0, p := p, lsid := some lsid.toNat, res := .scalar, lat := 8 }
  | .sts lsid _ p _ => { a := some false, b := some false, p := p, lsid := some lsid.toNat }
  | .ldgv lsid _ t0 p _ => { a := some false, b := some true, t0 := some t0, p := p, lsid := some lsid.toNat, res := .vector, lat := 12 }
  | .stsv lsid _ p _ => { a := some false, b := some true, c := some true, p := p, lsid := some lsid.toNat, res := .store }
  | .ldvs lsid _ t0 p _ => { a := some false, b := some false, t0 := some t0, p := p, lsid := some lsid.toNat, res := .vector, lat := 12 }
  | .stvs lsid _ p _ => { a := some false, b := some false, c := some true, p := p, lsid := some lsid.toNat, res := .store }
  | .aop lsid _ t0 p _ => { a := some false, b := some false, t0 := some t0, p := p, lsid := some lsid.toNat, res := .scalar, lat := 12 }
  | .acas lsid t0 p _ => { a := some false, b := some false, c := some false, t0 := some t0, p := p, lsid := some lsid.toNat, res := .scalar, lat := 12 }
  | .binit lsid _ p => { a := some false, b := some false, c := some false, p := p, lsid := some lsid.toNat }
  | .barv lsid p => { a := some false, p := p, lsid := some lsid.toNat }
  | .bexp lsid _ p => { a := some false, b := some false, p := p, lsid := some lsid.toNat }
  | .bph lsid t0 p => { a := some false, t0 := some t0, p := p, lsid := some lsid.toNat, res := .scalar, lat := 8 }
  | .drain lsid p => { a := some false, p := p, lsid := some lsid.toNat }
  | .evsig lsid _ p => { a := some false, p := p, lsid := some lsid.toNat }
  | .hget lsid _ _ _ _ _ p => { a := some false, b := some false, c := some false, p := p, lsid := some lsid.toNat }
  | .hsnd lsid _ _ _ _ _ p => { a := some false, b := some false, c := some false, p := p, lsid := some lsid.toNat }
  | .hgath lsid _ _ _ _ _ p _ => { a := some false, b := some false, c := some false, p := p, lsid := some lsid.toNat }
  | .hscat lsid _ _ _ _ _ p _ => { a := some false, b := some false, c := some false, p := p, lsid := some lsid.toNat }
  | .hsadd lsid _ _ _ _ _ p _ => { a := some false, b := some false, c := some false, p := p, lsid := some lsid.toNat }
  | .hpfch lsid _ p => { a := some false, b := some false, c := some false, p := p, lsid := some lsid.toNat }
  | .qpush lsid t0 p => { a := some false, b := some true, t0 := some t0, p := p, lsid := some lsid.toNat, res := .scalar, lat := 8 }
  | .qpop lsid t0 p => { a := some false, t0 := some t0, p := p, lsid := some lsid.toNat, res := .vector, lat := 12 }
  | .qstop lsid t0 p => { a := some false, t0 := some t0, p := p, lsid := some lsid.toNat, res := .scalar, lat := 8 }
  | .tidset lsid _ p => { a := some false, p := p, lsid := some lsid.toNat, lat := 8 }
  | .mxmul lsid _ p => { a := some false, b := some false, p := p, lsid := some lsid.toNat }
  | .mxdrn lsid _ p => { a := some false, b := some false, p := p, lsid := some lsid.toNat }
  | .mxz lsid p => { a := some false, b := some false, p := p, lsid := some lsid.toNat }
  | .plpin lsid p => { a := some false, b := some false, p := p, lsid := some lsid.toNat }
  | .plunp lsid p => { a := some false, b := some false, p := p, lsid := some lsid.toNat }
  | .pldlt lsid p => { a := some false, b := some false, c := some false, p := p, lsid := some lsid.toNat }
  | .plrd lsid p => { a := some false, b := some false, p := p, lsid := some lsid.toNat }
  | .plspl lsid _ _ _ _ p => { a := some false, b := some false, c := some false, p := p, lsid := some lsid.toNat }
  | .plfil lsid _ _ _ p => { a := some false, b := some false, c := some false, p := p, lsid := some lsid.toNat }
  | .vdecl lsid _ p => { a := some false, p := p, lsid := some lsid.toNat }
  | .fork lsid _ p => { a := some false, b := some false, c := some false, p := p, lsid := some lsid.toNat }
  | .fence lsid _ p => { p := p, lsid := some lsid.toNat }
  | .ctlrd lsid t0 p => { a := some false, t0 := some t0, p := p, lsid := some lsid.toNat, res := .scalar, lat := 12 }
  | .ctlwr lsid p => { a := some false, b := some false, p := p, lsid := some lsid.toNat }
  | .sysc lsid _ t0 p => { a := some false, b := some false, c := some false, t0 := some t0, p := p, lsid := some lsid.toNat, res := .scalar }
  | .activation _ _ => .step
  | .headerRead _ _ _ => .step
  | .blockCommit _ _ => .step
  | .rowCloseComplete _ _ => .step
  | .quantumEnd _ _ => .step
  | .rowAged _ _ => .step
  | .blockStall _ _ => .step
  | .forcedClose _ _ => .step
  | .preciseTrap _ _ => .step
  | .asyncCondition _ => .step
  | .acknowledgement _ => .step
  | .waitWake _ _ => .step
  | .remoteStoreArrival _ => .step
  | .remoteAtomicArrival _ => .step
  | .runreq _ _ => .step
  | .stopreq _ _ => .step
  | .redir _ _ => .step
  | .qnotify _ _ _ => .step
  | .queueMapPending => .step
  | .qcancel _ _ _ => .step
  | .selectionRound => .step
  | .gangDispatch => .step
  | .grelease _ _ => .step
  | .gangEnd _ => .step
  | .tstopStop _ => .step
  | .tstopResume _ => .step
  | .stopCycle _ => .step
  | .stopDeadline _ => .step
  | .coreQuiescent _ => .step
  | .contextSave _ => .step
  | .stopAbandon => .step
  | .resumeTime => .step
  | .chunkStart _ _ => .step
  | .chunkComplete _ _ => .step
  | .walkStart _ => .step
  | .walkComplete _ => .step
  | .pageRequestRecord _ => .step
  | .prresp _ _ _ => .step
  | .tlbinv _ _ _ => .step
  | .tlbinvDone => .step
  | .hbmAdmit _ => .step
  | .hbmServe _ => .step
  | .deadlineUrgent _ => .step
  | .refmarkNotLive _ _ => .step
  | .refmarkLive _ _ => .step
  | .zeroFillComplete _ => .step
  | .patrolScrub _ => .step
  | .neighbourRefresh _ _ _ => .step
  | .hbmRowRemap _ _ _ => .step
  | .leaseRevoke _ => .step
  | .leaseDeadline _ => .step
  | .exportDeadline _ => .step
  | .fabricIngress _ => .step
  | .fabricTimeout _ => .step
  | .flitReplay _ => .step
  | .portRetrain _ _ => .step
  | .hostReadCompletion _ _ => .step
  | .hostReadTimeout _ => .step
  | .barrierArrival _ => .step
  | .flipBroadcast _ => .step
  | .stepStartNotice _ => .step
  | .drainArrivalSend _ => .step
  | .superstepArrivalSend _ => .step
  | .eventSignal _ => .step
  | .eventWindowStore _ => .step
  | .queueOpPerform _ _ _ => .step
  | .opaCommandAccept _ => .step
  | .opaCommandStart _ _ => .step
  | .opaGroupFinal _ _ => .step
  | .opaCommandComplete _ _ => .step
  | .drainGroupWrite _ _ => .step
  | .windowStorePerform _ _ => .step
  | .windowLoadServe _ _ _ => .step
  | .forkClaim _ _ => .step
  | .forkSearchComplete _ _ _ => .step
  | .taskStart _ => .step
  | .claimRelease _ => .step
  | .mergeStep _ => .step
  | .pairMismatch _ => .step
  | .pairTimeout _ => .step
  | .rollback _ => .step
  | .scdone _ _ => .step
  | .capmint _ => .step
  | .keyGenerate _ _ => .step
  | .keyDestroy _ => .step
  | .keyErase _ => .step
  | .parttabWrite _ _ => .step
  | .quarantine _ => .step
  | .quarantineComplete => .step
  | .repairCommit => .step
  | .repairDiscard => .step
  | .coreDisable _ => .step
  | .moduleReset => .step
  | .bootctl _ => .step
  | .d3hotEntry => .step
  | .d0Entry => .step
  | .lockInterface _ => .step
  | .startInterface _ => .step
  | .stopInterface _ => .step
  | .getDeviceInterfaceReport _ => .step
  | .getDeviceInterfaceState _ => .step
  | .tdiError _ => .step
  | .getVersion _ => .step
  | .getCapabilities _ => .step
  | .negotiateAlgorithms _ _ => .step
  | .getDigests _ => .step
  | .getCertificate _ _ _ _ => .step
  | .challenge _ _ => .step
  | .getMeasurements _ _ _ => .step
  | .keyExchange _ => .step
  | .finish _ _ => .step
  | .heartbeat _ _ => .step
  | .keyUpdate _ _ => .step
  | .endSession _ => .step
  | .heartbeatTimeout _ => .step
  | .relayTimeout _ => .step
  | .ideKm _ _ => .step
  | .registerWrite _ _ _ _ => .step
  | .lpddrServe _ => .step
  | .arithmeticClockStep _ => .step
  | .hostLinkTraining _ _ => .step
  | .remapCopyComplete _ _ _ => .step

/-- The targets of an instruction: a TARGET1 equal to TARGET0 is the same target (R186). -/
def Shape.targets (x : Shape) : List Nat :=
  match x.t0, x.t1 with
  | some t, some u => if t = u then [t.toNat] else [t.toNat, u.toNat]
  | some t, none => [t.toNat]
  | none, some u => [u.toNat]
  | none, none => []

/-! ### Tokens -/

/-- The 32 lanes of a token (R164): a scalar gives its low word to every lane. -/
def Token.lanes : Token → List Lane
  | .vec l => l
  | .sca none => List.replicate 32 none
  | .sca (some (v, p)) => List.replicate 32 (some (v.setWidth 32, p))

def Token.isVec : Token → Bool
  | .vec _ => true
  | .sca _ => false

/-- All-null (R188). -/
def Token.allNull : Token → Bool
  | .vec l => l.all (·.isNone)
  | .sca v => v.isNone

/-- Any poisoned lane, or a poisoned scalar (R373). -/
def Token.poisoned : Token → Bool
  | .vec l => l.any fun x => match x with | some (_, p) => p | none => false
  | .sca (some (_, p)) => p
  | .sca none => false

/-- The number in a scalar token, 0 for a null one. -/
def Token.num : Token → Nat
  | .sca (some (v, _)) => v.toNat
  | _ => 0

def Token.nullVec : Token := .vec (List.replicate 32 none)
def Token.nullSca : Token := .sca none

/-- A scalar token. -/
def Token.ofNat (v : Nat) (poison : Bool := false) : Token := .sca (some (BitVec.ofNat 64 v, poison))

/-- Lane `i` of a list of lanes. -/
def laneAt (l : List Lane) (i : Nat) : Lane := (l[i]?).join

/-- Two lanes meet in one slot (R189): none is a collision. -/
def meetLane : Lane → Lane → Option Lane
  | none, x => some x
  | x, none => some x
  | some _, some _ => none

/-- Two tokens meet in one slot or write entry (R189): the joined token, or the check that is raised: 0x0104 TokenKind,
0x0106 TokenCollision. All-null tokens leave the other's value. -/
def meet (x y : Token) : Except Nat Token :=
  match x, y with
  | .sca none, .sca v => .ok (.sca v)
  | .sca v, .sca none => .ok (.sca v)
  | .sca (some _), .sca (some _) => .error 0x0106
  | .vec l, .vec m =>
    let z := List.zipWith meetLane l m
    if z.any (·.isNone) then .error 0x0106 else .ok (.vec (z.map fun o => o.join))
  | _, _ => .error 0x0104

/-- The value formed from the tokens delivered to one target (R189). Where both of its checks arise, the one that is met first from the last delivered
token on is raised (log 150). -/
def meetAll : List Token → Except Nat Token
  | [] => .ok .nullSca
  | [t] => .ok t
  | t :: ts => match meetAll ts with
    | .ok u => meet t u
    | .error c => .error c

/-! ### Instances -/

/-- The instruction of a raw body word; a word that is no instruction never passes R187. -/
def insOf (w : Nat) : Option Instr :=
  match decodeWord w with
  | .ok i => some i
  | .error _ => none

/-- The shape of instruction `i` of an instance. -/
def Inst.shapeAt (x : Inst) (i : Nat) : Shape :=
  match (x.ins[i]?).bind insOf with
  | some ins => shape ins
  | none => .step

/-- Read entry `e` of a header: RREG and RTGT (R184). -/
def readEntry (h : List Nat) (e : Nat) : Nat := bits (h.getD (1 + e / 4) 0) (16 * (e % 4) + 15) (16 * (e % 4))
def readReg (h : List Nat) (e : Nat) : Nat := bits (readEntry h e) 13 8
def readTarget (h : List Nat) (e : Nat) : Nat := readEntry h e % 256

/-- Write entry `j` of a header: its 8 bits (R185). -/
def writeEntry (h : List Nat) (j : Nat) : Nat := bits (h.getD 3 0) (8 * j + 7) (8 * j)

def headerRep (h : List Nat) : Bool := bit (h.getD 0 0) 12
def headerRcount (h : List Nat) : Nat := bits (h.getD 0 0) 16 13
def headerStride (h : List Nat) : Nat := bits (h.getD 0 0) 19 17
def headerHwords (h : List Nat) : Nat := bits (h.getD 0 0) 11 5
def headerIcount (h : List Nat) : Nat := bits (h.getD 0 0) 4 0

/-- The last pass of a REP block is pass RCOUNT; another block has the one pass 0 (R183). -/
def Inst.lastPass (x : Inst) : Bool := x.pass == headerRcount x.header

/-- The producers of a target: read entries that are used, and instruction targets (R189). -/
def Inst.producers (x : Inst) (t : Nat) : Nat :=
  ((List.range 8).filter fun e => readReg x.header e != 63 && readTarget x.header e == t).length
    + ((x.ins.filterMap insOf).map fun i => (shape i).targets.count t).sum

/-- The tokens delivered to a target by the end of a cycle. -/
def Inst.delivered (x : Inst) (t cycle : Nat) : List Tok := x.toks.filter fun k => k.dest == t && k.due ≤ cycle

/-- A slot or write entry is full once every producer has delivered (R189). -/
def Inst.full (x : Inst) (t cycle : Nat) : Bool := (x.delivered t cycle).length == x.producers t

/-- The value of a full slot; a collision has been raised as a check before. -/
def Inst.value (x : Inst) (t cycle : Nat) : Token :=
  match meetAll ((x.delivered t cycle).map (·.val)) with
  | .ok v => v
  | .error _ => .nullSca

/-- Targets of the slots of instruction `i` (R186). -/
def slotA (i : Nat) : Nat := i
def slotB (i : Nat) : Nat := 64 + i
def slotC (i : Nat) : Nat := 128 + i
def slotP (i : Nat) : Nat := 192 + i
def entryT (j : Nat) : Nat := 192 + 32 + j

/-- A wait that keeps an instruction from counting as fired: a FORK's search (R297), and an atomic or queue operation that is still to be
performed, whose effect the operations of higher LSID see (R195, R278). -/
def Wait.open' : Wait → Bool
  | .search .. | .atomic _ | .queue .. => true
  | _ => false

/-- An instruction counts as fired for the operations of higher LSID. -/
def Inst.hasFired (x : Inst) (i : Nat) : Bool :=
  (x.fired.any fun f => f.1 == i) && !(x.waits.any fun w => w.1 == i && w.2.open')

/-- Every LSID-carrying instruction of lower LSID has fired (R195). -/
def Inst.lowerFired (x : Inst) (lsid : Nat) : Bool :=
  (List.range x.ins.length).all fun i =>
    match (x.shapeAt i).lsid with
    | some l => lsid ≤ l || x.hasFired i
    | none => true

/-- An instruction is eligible in a cycle when its slots were full by the end of the cycle before (R67); passes before the
last fire no exit (R193). -/
def Inst.eligible (x : Inst) (i cycle : Nat) : Bool :=
  let sh := x.shapeAt i
  let ok (u : Option Bool) (t : Nat) : Bool := u.isNone || x.full t (cycle - 1)
  !(x.fired.any fun f => f.1 == i) && x.start ≤ cycle && ok sh.a (slotA i) && ok sh.b (slotB i) && ok sh.c (slotC i)
    && (sh.p == .always || x.full (slotP i) (cycle - 1)) && (!sh.isExit || x.lastPass)

/-! ### Firing -/

/-- What a token instruction reads: its operands, the lanes its predicate selects, and the row state of R229. -/
structure Opnds where
  a : Token
  b : Token
  c : Token
  mask : List Bool
  rm : Nat
  key : Nat
  cseed : Nat
  grow : Nat
  deriving DecidableEq, Repr

/-- The result of a token instruction: its token and the flags it raises. -/
structure Res where
  out : Token
  flags : Flags := {}
  deriving DecidableEq, Repr

/-- Whether a check takes the place of an earlier one (R341): a fire-class check of the same cycle comes before one of the
commit class, and among those of the fire class the lowest instruction index. -/
def Check.beats (k j : Check) : Bool :=
  k.cycle == j.cycle && ((!k.commit && j.commit) || (!k.commit && !j.commit && k.tidx < j.tidx))

/-- Raise a check in an instance (R338, R341). -/
def raiseCheck (core rid : Nat) (k : Check) : Act :=
  modInst core rid fun x => match x.failed with
    | some j => if k.beats j then { x with failed := some k } else x
    | none => { x with failed := some k }

/-- A check that instruction `idx` raises in this cycle. -/
def checkAt (core rid idx code : Nat) (commit : Bool) : Act :=
  .get fun s => raiseCheck core rid
    { code := code, tvalid := true, tidx := idx, twe := false, cycle := s.cycle, commit := commit }

/-- A fire-class check of instruction `idx`. -/
def failAt (core rid idx code : Nat) : Act := checkAt core rid idx code false

/-- Deliver a token to every target of an instruction by the end of a cycle (R68). -/
def deliver (core rid idx : Nat) (sh : Shape) (v : Token) (due : Nat) : Act :=
  modInst core rid fun x =>
    { x with toks := x.toks ++ sh.targets.map fun t => { dest := t, val := v, due := due, from? := idx } }

/-- Mark an instruction fired in this cycle, with its latency: 1 where its predicate does not match (R67). -/
def markFired (core rid idx lat : Nat) : Act :=
  .get fun s => modInst core rid fun x => { x with fired := x.fired ++ [(idx, s.cycle)], busy := x.busy ++ [(idx, s.cycle + lat - 1)] }

/-- The all-null token of an instruction's result kind (R191). -/
def nullResult (sh : Shape) (a b : Token) : Token :=
  match sh.res with
  | .vector => .nullVec
  | .follows => if (sh.a.isSome && a.isVec) || (sh.b.isSome && b.isVec) then .nullVec else .nullSca
  | _ => .nullSca

/-- How a predicate token selects (R191): `none` where it is a vector, else whether the scalar matches. A null predicate
matches neither. -/
def scalarMatch (p : Pred) (t : Token) : Bool :=
  match p, t with
  | .always, _ => true
  | .onTrue, .sca (some (v, _)) => v != 0
  | .onFalse, .sca (some (v, _)) => v == 0
  | _, _ => false

/-- The lanes a predicate selects (R191). -/
def maskOf (p : Pred) (t : Token) : List Bool :=
  match p, t with
  | .always, _ => List.replicate 32 true
  | .onTrue, .vec l => l.map fun x => match x with | some (w, _) => w != 0 | none => false
  | .onFalse, .vec l => l.map fun x => match x with | some (w, _) => w == 0 | none => false
  | p, t => List.replicate 32 (scalarMatch p t)

/-- The tokens in an instruction's slots when it fires. -/
structure Fired where
  core : Nat
  rid : Nat
  idx : Nat
  slot : Slot
  sh : Shape
  a : Token
  b : Token
  c : Token
  p : Token
  deriving DecidableEq, Repr

/-- The instruction under the cursor, with its operands; none where no instance runs there. -/
def State.fired? (s : State) (i : Instr) : Option Fired :=
  match s.cursor with
  | none => none
  | some (core, rid, idx) =>
    match s.slot? core rid with
    | none => none
    | some sl =>
      if sl.phase = .running then
        some { core := core, rid := rid, idx := idx, slot := sl, sh := shape i, a := sl.inst.value (slotA idx) s.cycle,
               b := sl.inst.value (slotB idx) s.cycle, c := sl.inst.value (slotC idx) s.cycle,
               p := sl.inst.value (slotP idx) s.cycle }
      else none

/-- The kind checks of an instruction that fires: TokenKind for a vector in a scalar slot (R190), PredicateKind for a
vector predicate on an instruction without a vector effect (R191), poison consumed by the predicate slot (R374). -/
def kindCheck (f : Fired) : Option Nat :=
  if f.sh.p != .always && f.p.poisoned then some 0x0804
  else if (f.sh.a == some false && f.a.isVec) || (f.sh.b == some false && f.b.isVec)
      || (f.sh.c == some false && f.c.isVec) then some 0x0104
  else if f.sh.p != .always && f.p.isVec then
    match f.sh.res with
    | .vector | .store => none
    | .follows => if f.a.isVec || (f.sh.b.isSome && f.b.isVec) then none else some 0x0105
    | _ => some 0x0105
  else none

/-- The firing of any instruction of a block: the fault where no instance runs under the cursor; a failed kind check;
an all-null result, by the end of the cycle (R67), where a scalar predicate does not match; else the instruction's own program. A
failed check of code 0x0804 in a superstep gang starts a rollback instead (R374), which the executor sees in `failed`. -/
def fireWith (i : Instr) (k : Fired → Act) (s : State) : Host.Outcome State Fault Refusal :=
  match s.fired? i with
  | none => .fault .noInstance
  | some f =>
    let off := f.sh.p != .always && !f.p.isVec && !scalarMatch f.sh.p f.p
    .next (Act.run
      (.all [markFired f.core f.rid f.idx (if off then 1 else f.sh.lat),
             match kindCheck f with
             | some code => failAt f.core f.rid f.idx code
             | none => if off then deliver f.core f.rid f.idx f.sh (nullResult f.sh f.a f.b) s.cycle else k f]) s)

/-- OR flags into an instance's (R171). -/
def addFlags (core rid : Nat) (fl : Flags) : Act :=
  modInst core rid fun x => { x with flags := Flags.or x.flags fl }

/-- What a token instruction reads when it fires. -/
def opnds (s : State) (f : Fired) : Opnds :=
  { a := f.a, b := f.b, c := f.c, mask := maskOf f.sh.p f.p, rm := f.slot.inst.rm, key := f.slot.inst.key,
    cseed := f.slot.inst.cseed, grow := s.rowLe f.core f.rid 0x50 8 % 2 ^ 17 }

/-- A token instruction: it computes on tokens only and delivers its result by the end of cycle c + L - 1 (R68, R226). -/
def fireToken (i : Instr) (g : Opnds → Res) (s : State) : Host.Outcome State Fault Refusal :=
  fireWith i (fun f => .get fun s =>
    let r := g (opnds s f)
    .all [addFlags f.core f.rid r.flags, deliver f.core f.rid f.idx f.sh r.out (s.cycle + f.sh.lat - 1)]) s

/-! ### Elements (R163) -/

/-- Element `j` of a lane word. -/
def elemOf (t : LaneType) (w : Word32) (j : Nat) : Nat := w.toNat / 2 ^ (t.width * j) % 2 ^ t.width

/-- A lane word from its elements. -/
def packElems (t : LaneType) : List Nat → Nat
  | [] => 0
  | e :: es => e % 2 ^ t.width + 2 ^ t.width * packElems t es

/-- Apply a function to the elements of lane words. -/
def elementwise (t : LaneType) (ws : List Word32) (f : List Nat → Nat × Flags) : Word32 × Flags :=
  let rs := (List.range t.elems).map fun j => f (ws.map fun w => elemOf t w j)
  (BitVec.ofNat 32 (packElems t (rs.map (·.1))), Flags.orAll (rs.map (·.2)))

/-- The words of some lanes, if none is null, and whether one is poisoned. -/
def gather : List Lane → Option (List Word32 × Bool)
  | [] => some ([], false)
  | none :: _ => none
  | some (w, p) :: ls => match gather ls with
    | some (ws, q) => some (w :: ws, p || q)
    | none => none

/-- A lane-wise instruction (R226, R227): a result lane is null where an operand lane is null or the predicate does not
select it, and poisoned where an operand lane is (R373). -/
def laneWise (mask : List Bool) (toks : List Token) (f : List Word32 → Word32 × Flags) : Res :=
  let one (i : Nat) : Lane × Flags :=
    if mask.getD i false then
      match gather (toks.map fun t => laneAt t.lanes i) with
      | some (ws, p) => let r := f ws
        (some (r.1, p), r.2)
      | none => (none, {})
    else (none, {})
  let rs := (List.range 32).map one
  { out := .vec (rs.map (·.1)), flags := Flags.orAll (rs.map (·.2)) }

/-- A scalar instruction of numbers (R223): a null operand gives a null result, a poisoned one a poisoned result. -/
def scalarOp (toks : List Token) (f : List Nat → Nat) : Res :=
  if toks.any Token.allNull then { out := .nullSca }
  else { out := .ofNat (f (toks.map Token.num)) (toks.any Token.poisoned) }

end Sys2Proof.Machine
end

