-- ==== Sys2Proof/Machine/Scalar.lean ====
section
/-!
DEFINITION. Constants, moves, tests, selection, predicates and scalar arithmetic (R219 to R224).
-/

namespace Sys2Proof.Machine

/-- MOV: A to each target; lanes a vector predicate does not select are null (R219, R191). -/
def moved (o : Opnds) : Res :=
  match o.a with
  | .sca v => { out := .sca v }
  | .vec l => { out := .vec ((List.range 32).map fun i => if o.mask.getD i false then laneAt l i else none) }

/-- The relations of the tests (R220). -/
inductive Rel where
  | eq | ne | lt | le
  deriving DecidableEq, Repr

/-- The relation on integers. -/
def Rel.int (r : Rel) (a b : Int) : Bool :=
  match r with
  | .eq => a == b
  | .ne => a != b
  | .lt => decide (a < b)
  | .le => decide (a ≤ b)

/-- The relation on floating-point values and its flags: a NaN makes all but TNE false; a signalling NaN raises NV, a
quiet one only in TLT and TLE (R220). -/
def Rel.val (r : Rel) (a b : Val) : Bool × Flags :=
  let nan := a.isNan || b.isNan
  let nv := a.isSnan || b.isSnan || (nan && (r == .lt || r == .le))
  let v := match r with
    | .eq => Val.eq a b
    | .ne => nan || !Val.eq a b
    | .lt => a.lt b
    | .le => a.lt b || Val.eq a b
  (v, { nv := nv })

/-- TEQ, TNE, TLT and TLE (R220): a scalar 1 or 0 for T 13 and 14, else all ones or 0 in each element. -/
def test (r : Rel) (t : LaneType) (o : Opnds) : Res :=
  if t.isScalar then
    scalarOp [o.a, o.b] fun v => (r.int (laneInt t (v.getD 0 0)) (laneInt t (v.getD 1 0))).toNat
  else
    laneWise o.mask [o.a, o.b] fun ws => elementwise t ws fun e =>
      let a := e.getD 0 0
      let b := e.getD 1 0
      if t.isInt then (if r.int (laneInt t a) (laneInt t b) then 2 ^ t.width - 1 else 0, {})
      else
        let v := r.val (laneValue t a) (laneValue t b)
        (if v.1 then 2 ^ t.width - 1 else 0, v.2)

/-- SEL (R221), carrying the poison of the token it delivers (R373): a lane is null where C's lane, or the lane of an operand one of its elements is taken from, is null. -/
def select (t : LaneType) (o : Opnds) : Res :=
  if t.isScalar then
    match o.c with
    | .sca (some (v, _)) =>
      match (if v != 0 then o.a else o.b) with
      | .sca (some (w, q)) => { out := .sca (some (w, q)) }
      | _ => { out := .nullSca }
    | _ => { out := .nullSca }
  else
    let one (i : Nat) : Lane :=
      if o.mask.getD i false then
        match laneAt o.c.lanes i with
        | none => none
        | some (w, _) =>
          let pick (j : Nat) : Lane := if elemOf t w j != 0 then laneAt o.a.lanes i else laneAt o.b.lanes i
          let picks := (List.range t.elems).map pick
          match gather picks with
          | none => none
          | some (ws, q) =>
            some (BitVec.ofNat 32 (packElems t ((List.range t.elems).map fun j => elemOf t (ws.getD j 0) j)), q)
      else none
    { out := .vec ((List.range 32).map one) }

/-- PAND, POR and PNOT (R222): 1 or 0 lane by lane, or as a scalar where every operand is one. -/
def truth (toks : List Token) (f : List Nat → Bool) (o : Opnds) : Res :=
  if toks.any Token.isVec then
    laneWise o.mask toks fun ws => (BitVec.ofNat 32 (f (ws.map (·.toNat))).toNat, {})
  else scalarOp toks fun v => (f v).toNat

/-- ANYL and ALLL (R222): over the lanes that are not null; a null scalar for an all-null A, A ≠ 0 for a scalar. -/
def lanesTruth (a : Token) (f : List Nat → Bool) : Res :=
  match a with
  | .sca v => match v with
    | none => { out := .nullSca }
    | some (w, p) => { out := .ofNat (w != 0).toNat p }
  | .vec l =>
    let live := l.filterMap id
    if live.isEmpty then { out := .nullSca }
    else { out := .ofNat (f (live.map fun x => x.1.toNat)).toNat (live.any (·.2)) }

/-- A scalar instruction over two integers of type T (R223). -/
def intOp2 (t : LaneType) (o : Opnds) (f : Int → Int → Nat) : Res :=
  scalarOp [o.a, o.b] fun v => f (laneInt t (v.getD 0 0)) (laneInt t (v.getD 1 0))

/-- A scalar instruction over one integer of type T (R223). -/
def intOp1 (t : LaneType) (o : Opnds) (f : Int → Nat) : Res :=
  scalarOp [o.a] fun v => f (laneInt t (v.getD 0 0))

/-- The count of trailing zero bits, `n` for 0 (R224). -/
def trailingZeros (x : Nat) : Nat → Nat
  | 0 => 0
  | n + 1 => if x % 2 = 1 then 0 else 1 + trailingZeros (x / 2) n

/-- `MOVI` (R219). -/
def execMovi (imm : BitVec 16) (t0 : Target) (s : State) : Host.Outcome State Fault Refusal :=
  fireToken (.movi imm t0) (fun _ => { out := .ofNat (wrap 64 imm.toInt) }) s

/-- `MOVIH` (R219). -/
def execMovih (imm : BitVec 16) (t0 : Target) (s : State) : Host.Outcome State Fault Refusal :=
  fireToken (.movih imm t0) (fun o => scalarOp [o.a] fun v => (v.getD 0 0 % 2 ^ 48) * 2 ^ 16 + imm.toNat) s

/-- `MOV` (R219). -/
def execMov (t1 : Target) (t0 : Target) (p : Pred) (t : LaneType) (s : State) : Host.Outcome State Fault Refusal :=
  fireToken (.mov t1 t0 p t) (fun o => moved o) s

/-- `MOV_F16` (R201, R219). -/
def execMov_F16 (t0 : Target) (st : ShortType) (s : State) : Host.Outcome State Fault Refusal :=
  fireToken (.mov_F16 t0 st) (fun o => moved o) s

/-- `TEQ` (R220). -/
def execTeq (t1 : Target) (t0 : Target) (p : Pred) (t : LaneType) (s : State) : Host.Outcome State Fault Refusal :=
  fireToken (.teq t1 t0 p t) (fun o => test .eq t o) s

/-- `TEQ_F16` (R201, R220). -/
def execTeq_F16 (t0 : Target) (st : ShortType) (s : State) : Host.Outcome State Fault Refusal :=
  fireToken (.teq_F16 t0 st) (fun o => test .eq st.lane o) s

/-- `TNE` (R220). -/
def execTne (t1 : Target) (t0 : Target) (p : Pred) (t : LaneType) (s : State) : Host.Outcome State Fault Refusal :=
  fireToken (.tne t1 t0 p t) (fun o => test .ne t o) s

/-- `TLT` (R220). -/
def execTlt (t1 : Target) (t0 : Target) (p : Pred) (t : LaneType) (s : State) : Host.Outcome State Fault Refusal :=
  fireToken (.tlt t1 t0 p t) (fun o => test .lt t o) s

/-- `TLT_F16` (R201, R220). -/
def execTlt_F16 (t0 : Target) (st : ShortType) (s : State) : Host.Outcome State Fault Refusal :=
  fireToken (.tlt_F16 t0 st) (fun o => test .lt st.lane o) s

/-- `TLE` (R220). -/
def execTle (t1 : Target) (t0 : Target) (p : Pred) (t : LaneType) (s : State) : Host.Outcome State Fault Refusal :=
  fireToken (.tle t1 t0 p t) (fun o => test .le t o) s

/-- `SEL` (R221). -/
def execSel (t1 : Target) (t0 : Target) (p : Pred) (t : LaneType) (s : State) : Host.Outcome State Fault Refusal :=
  fireToken (.sel t1 t0 p t) (fun o => select t o) s

/-- `SEL_F16` (R201, R221). -/
def execSel_F16 (t0 : Target) (st : ShortType) (s : State) : Host.Outcome State Fault Refusal :=
  fireToken (.sel_F16 t0 st) (fun o => select st.lane o) s

/-- `PAND` (R222). -/
def execPand (t1 : Target) (t0 : Target) (p : Pred) (s : State) : Host.Outcome State Fault Refusal :=
  fireToken (.pand t1 t0 p) (fun o => truth [o.a, o.b] (fun v => v.all (· != 0)) o) s

/-- `POR` (R222). -/
def execPor (t1 : Target) (t0 : Target) (p : Pred) (s : State) : Host.Outcome State Fault Refusal :=
  fireToken (.por t1 t0 p) (fun o => truth [o.a, o.b] (fun v => v.any (· != 0)) o) s

/-- `PNOT` (R222). -/
def execPnot (t1 : Target) (t0 : Target) (p : Pred) (s : State) : Host.Outcome State Fault Refusal :=
  fireToken (.pnot t1 t0 p) (fun o => truth [o.a] (fun v => v.all (· == 0)) o) s

/-- `ANYL` (R222). -/
def execAnyl (t1 : Target) (t0 : Target) (p : Pred) (s : State) : Host.Outcome State Fault Refusal :=
  fireToken (.anyl t1 t0 p) (fun o => lanesTruth o.a fun l => l.any (· != 0)) s

/-- `ALLL` (R222). -/
def execAlll (t1 : Target) (t0 : Target) (p : Pred) (s : State) : Host.Outcome State Fault Refusal :=
  fireToken (.alll t1 t0 p) (fun o => lanesTruth o.a fun l => l.all (· != 0)) s

/-- `ADDS` (R223). -/
def execAdds (x : XMode) (t1 : Target) (t0 : Target) (p : Pred) (t : LaneType) (s : State) : Host.Outcome State Fault Refusal :=
  fireToken (.adds x t1 t0 p t) (fun o => intOp2 t o fun a b => laneWrap t (x == .rne) (a + b)) s

/-- `SUBS` (R223). -/
def execSubs (x : XMode) (t1 : Target) (t0 : Target) (p : Pred) (t : LaneType) (s : State) : Host.Outcome State Fault Refusal :=
  fireToken (.subs x t1 t0 p t) (fun o => intOp2 t o fun a b => laneWrap t (x == .rne) (a - b)) s

/-- `MULS` (R223). -/
def execMuls (x : XMode) (t1 : Target) (t0 : Target) (p : Pred) (t : LaneType) (s : State) : Host.Outcome State Fault Refusal :=
  fireToken (.muls x t1 t0 p t) (fun o => intOp2 t o fun a b => laneWrap t (x == .rne) (a * b)) s

/-- `MULHS` (R223). -/
def execMulhs (t1 : Target) (t0 : Target) (p : Pred) (t : LaneType) (s : State) : Host.Outcome State Fault Refusal :=
  fireToken (.mulhs t1 t0 p t) (fun o => intOp2 t o fun a b => wrap 64 ((a * b).fdiv (2 ^ 64))) s

/-- `DIVS` (R223). -/
def execDivs (x : XMode) (t1 : Target) (t0 : Target) (p : Pred) (t : LaneType) (s : State) : Host.Outcome State Fault Refusal :=
  fireToken (.divs x t1 t0 p t) (fun o => intOp2 t o fun a b => if b = 0 then 2 ^ 64 - 1 else laneWrap t (x == .rne) (a.tdiv b)) s

/-- `REMS` (R223). -/
def execRems (t1 : Target) (t0 : Target) (p : Pred) (t : LaneType) (s : State) : Host.Outcome State Fault Refusal :=
  fireToken (.rems t1 t0 p t) (fun o => intOp2 t o fun a b => wrap 64 (if b = 0 then a else a.tmod b)) s

/-- `ANDS` (R223). -/
def execAnds (t1 : Target) (t0 : Target) (p : Pred) (t : LaneType) (s : State) : Host.Outcome State Fault Refusal :=
  fireToken (.ands t1 t0 p t) (fun o => scalarOp [o.a, o.b] fun v => v.getD 0 0 &&& v.getD 1 0) s

/-- `ORS` (R223). -/
def execOrs (t1 : Target) (t0 : Target) (p : Pred) (t : LaneType) (s : State) : Host.Outcome State Fault Refusal :=
  fireToken (.ors t1 t0 p t) (fun o => scalarOp [o.a, o.b] fun v => v.getD 0 0 ||| v.getD 1 0) s

/-- `XORS` (R223). -/
def execXors (t1 : Target) (t0 : Target) (p : Pred) (t : LaneType) (s : State) : Host.Outcome State Fault Refusal :=
  fireToken (.xors t1 t0 p t) (fun o => scalarOp [o.a, o.b] fun v => v.getD 0 0 ^^^ v.getD 1 0) s

/-- `SHLS` (R223). -/
def execShls (x : XMode) (t1 : Target) (t0 : Target) (p : Pred) (t : LaneType) (s : State) : Host.Outcome State Fault Refusal :=
  fireToken (.shls x t1 t0 p t) (fun o => intOp2 t o fun a b => laneWrap t (x == .rne) (a * 2 ^ (wrap 64 b % 64))) s

/-- `SHRS` (R223). -/
def execShrs (t1 : Target) (t0 : Target) (p : Pred) (t : LaneType) (s : State) : Host.Outcome State Fault Refusal :=
  fireToken (.shrs t1 t0 p t) (fun o => intOp2 t o fun a b => wrap 64 (a.fdiv (2 ^ (wrap 64 b % 64)))) s

/-- `ADDIS` (R223). -/
def execAddis (imm : BitVec 10) (t0 : Target) (p : Pred) (t : LaneType) (s : State) : Host.Outcome State Fault Refusal :=
  fireToken (.addis imm t0 p t) (fun o => intOp1 t o fun a => wrap 64 (a + imm.toInt)) s

/-- `ANDIS` (R223). -/
def execAndis (imm : BitVec 10) (t0 : Target) (p : Pred) (t : LaneType) (s : State) : Host.Outcome State Fault Refusal :=
  fireToken (.andis imm t0 p t) (fun o => scalarOp [o.a] fun v => v.getD 0 0 &&& wrap 64 imm.toInt) s

/-- `SHIS` (R223). -/
def execShis (imm : BitVec 10) (t0 : Target) (p : Pred) (t : LaneType) (s : State) : Host.Outcome State Fault Refusal :=
  fireToken (.shis imm t0 p t) (fun o => intOp1 t o fun a => if 0 ≤ imm.toInt then wrap 64 (a * 2 ^ imm.toInt.toNat) else wrap 64 (a.fdiv (2 ^ (-imm.toInt).toNat))) s

/-- `CLZS` (R224). -/
def execClzs (t1 : Target) (t0 : Target) (p : Pred) (s : State) : Host.Outcome State Fault Refusal :=
  fireToken (.clzs t1 t0 p) (fun o => scalarOp [o.a] fun v => if v.getD 0 0 = 0 then 64 else 63 - Nat.log2 (v.getD 0 0)) s

/-- `CTZS` (R224). -/
def execCtzs (t1 : Target) (t0 : Target) (p : Pred) (s : State) : Host.Outcome State Fault Refusal :=
  fireToken (.ctzs t1 t0 p) (fun o => scalarOp [o.a] fun v => trailingZeros (v.getD 0 0) 64) s

/-- `POPCS` (R224). -/
def execPopcs (t1 : Target) (t0 : Target) (p : Pred) (s : State) : Host.Outcome State Fault Refusal :=
  fireToken (.popcs t1 t0 p) (fun o => scalarOp [o.a] fun v => ((List.range 64).filter fun i => bit (v.getD 0 0) i).length) s

/-- `MINS` (R224). -/
def execMins (t1 : Target) (t0 : Target) (p : Pred) (u : Bool) (s : State) : Host.Outcome State Fault Refusal :=
  fireToken (.mins t1 t0 p u) (fun o => intOp2 (if u then .n64 else .i64) o fun a b => wrap 64 (min a b)) s

/-- `MAXS` (R224). -/
def execMaxs (t1 : Target) (t0 : Target) (p : Pred) (u : Bool) (s : State) : Host.Outcome State Fault Refusal :=
  fireToken (.maxs t1 t0 p u) (fun o => intOp2 (if u then .n64 else .i64) o fun a b => wrap 64 (max a b)) s

end Sys2Proof.Machine
end

