-- ==== Sys2Proof/Machine/Vector.lean ====
section
/-!
DEFINITION. The vector lane instructions (R226 to R249).
-/

namespace Sys2Proof.Machine

/-- Lanes of integer elements (R233). -/
def intLanes (t : LaneType) (toks : List Token) (o : Opnds) (f : List Int → Nat) : Res :=
  laneWise o.mask toks fun ws => elementwise t ws fun e => (f (e.map (laneInt t)), {})

/-- Lanes of floating-point elements: the exact result of `f`, rounded once (R229, R234). -/
def fpLanes (t : LaneType) (x : XMode) (toks : List Token) (o : Opnds) (f : Rm → List Val → Val × Flags) : Res :=
  let m := rmOf x o.rm
  laneWise o.mask toks fun ws => elementwise t ws fun e =>
    laneResult t m (f m (e.map (laneValue t)))

/-- The operations of VADD, VSUB and VMUL. -/
inductive Arith where
  | add | sub | mul
  deriving DecidableEq, Repr

def Arith.int (op : Arith) (a b : Int) : Int :=
  match op with
  | .add => a + b
  | .sub => a - b
  | .mul => a * b

def Arith.val (op : Arith) (m : Rm) (a b : Val) : Val × Flags :=
  match op with
  | .add => sumVals m [a, b]
  | .sub => sumVals m [a, b.negate]
  | .mul => a.mul b

/-- VADD, VSUB and VMUL (R232 to R234). -/
def arith (op : Arith) (t : LaneType) (x : XMode) (o : Opnds) : Res :=
  if t.isInt then
    intLanes t [o.a, o.b] o fun v => laneWrap t (x == .rne) (op.int (v.getD 0 0) (v.getD 1 0))
  else fpLanes t x [o.a, o.b] o fun m v => op.val m (v.getD 0 (.nan false)) (v.getD 1 (.nan false))

/-- VFMA: exact, then rounded, wrapped or clamped once (R232 to R234). -/
def fmaLanes (t : LaneType) (x : XMode) (o : Opnds) : Res :=
  if t.isInt then
    intLanes t [o.a, o.b, o.c] o fun v => laneWrap t (x == .rne) (v.getD 0 0 * v.getD 1 0 + v.getD 2 0)
  else fpLanes t x [o.a, o.b, o.c] o fun m v =>
    Val.fma m (v.getD 0 (.nan false)) (v.getD 1 (.nan false)) (v.getD 2 (.nan false))

/-- An element as VMIN and VMAX compare it: the NaNs of the 8-bit formats count as quiet (R234). -/
def minMaxValue (t : LaneType) (x : Nat) : Val :=
  match laneValue t x with
  | .nan s => .nan (s && t != .e5m2x4)
  | v => v

/-- The lesser or greater of two elements, as an encoding (R234). -/
def minMaxElem (isMax : Bool) (t : LaneType) (a b : Nat) : Nat × Flags :=
  if t.isInt then
    ((if isMax then (if laneInt t a < laneInt t b then b else a) else (if laneInt t b < laneInt t a then b else a)), {})
  else
    minMaxNum isMax (if t = .dm8x4 then 0x80 else (laneFmt t).nanCode.getD 0) (minMaxValue t a) (minMaxValue t b) a b

/-- VMIN and VMAX (R232, R234). -/
def minMax (isMax : Bool) (t : LaneType) (o : Opnds) : Res :=
  laneWise o.mask [o.a, o.b] fun ws => elementwise t ws fun e => minMaxElem isMax t (e.getD 0 0) (e.getD 1 0)

/-- VSHL (R235): by the low bits of the count; with saturation to the limit of a's sign. -/
def shiftLeft (t : LaneType) (sat : Bool) (o : Opnds) : Res :=
  laneWise o.mask [o.a, o.b] fun ws => elementwise t ws fun e =>
    (laneWrap t sat (laneInt t (e.getD 0 0) * 2 ^ (e.getD 1 0 % t.width)), {})

/-- VSHR (R235): arithmetic for I types, logical for N types. -/
def shiftRight (t : LaneType) (o : Opnds) : Res :=
  laneWise o.mask [o.a, o.b] fun ws => elementwise t ws fun e =>
    (wrap t.width ((laneInt t (e.getD 0 0)).fdiv (2 ^ (e.getD 1 0 % t.width))), {})

/-- VDOT (R236): every product and C summed exactly, then one rounding, wrap or clamp. -/
def dot (t : LaneType) (x : XMode) (o : Opnds) : Res :=
  laneWise o.mask [o.a, o.b, o.c] fun ws =>
    let a := ws.getD 0 0
    let b := ws.getD 1 0
    let c := ws.getD 2 0
    if t.isInt then
      let u : LaneType := if t.isSigned then .i32 else .n32
      let p := (List.range t.elems).map fun j => laneInt t (elemOf t a j) * laneInt t (elemOf t b j)
      (BitVec.ofNat 32 (laneWrap u (x == .rne) (laneInt u c.toNat + p.sum)), {})
    else
      let m := rmOf x o.rm
      let p := (List.range t.elems).map fun j => (laneValue t (elemOf t a j)).mul (laneValue t (elemOf t b j))
      let v := sumVals m (p.map (·.1) ++ [Fmt.fp32.decode c.toNat])
      let r := Fmt.fp32.round m v.1
      (BitVec.ofNat 32 r.1, Flags.orAll (v.2 :: r.2 :: p.map (·.2)))

/-- The mode of a VCVT MODE field for a floating-point destination or a float source (R238). -/
def modeOf (mode rm : Nat) : Rm :=
  match mode with
  | 0 => rmOf .row rm
  | 1 => .rne
  | 2 => .rtz
  | _ => .srne

/-- One element of VCVT from type `u` to type `t` (R238, R167). -/
def convert (t u : LaneType) (mode rm e : Nat) : Nat × Flags :=
  if u.isInt then
    if t.isInt then (laneWrap t (mode == 1) (laneInt u e), {})
    else laneRound t (modeOf mode rm) (Val.ofInt (laneInt u e))
  else if t.isInt then laneToInt t (modeOf mode rm) (laneValue u e)
  else laneRound t (modeOf mode rm) (laneValue u e)

/-- VPACK's Narrow (R239): the lane as FP32, I32 or N32, to one element. -/
def narrow (t : LaneType) (x : XMode) (o : Opnds) (w : Word32) : Nat × Flags :=
  if t.isInt then (laneWrap t (x == .rne) (laneInt (if t.isSigned then .i32 else .n32) w.toNat), {})
  else laneRound t (rmOf x o.rm) (Fmt.fp32.decode w.toNat)

/-- VCVTS's element (R240, R177): x / s exactly, rounded once; a NaN scale, quiet or not, raises NV. -/
def scaledNarrow (t : LaneType) (x : XMode) (o : Opnds) (w : Word32) : Nat × Flags :=
  let m := rmOf x o.rm
  let sc := Fmt.fp32.decode (o.b.num % 2 ^ 32)
  let q := (Fmt.fp32.decode w.toNat).div sc
  let r := if t.isInt then ((laneToInt t m q.1).1, Flags.or q.2 (laneToInt t m q.1).2) else laneResult t m q
  (r.1, Flags.or r.2 (if sc.isNan then Flags.invalid else {}))

/-- The part of VCVTS (R240): B<34:32>. -/
def scaledPart (t : LaneType) (o : Opnds) : Nat := bits o.b.num 34 32 % t.elems

/-- VPACK and VCVTS (R239, R240): part q of C's elements filled from A's lanes; null A lanes leave C's element. A null B, which gives no q, nulls
every lane (R227; log 155), and a poisoned one, which every lane's formula reads, poisons each (R373). -/
def packInto (t : LaneType) (o : Opnds) (q : Nat) (f : Word32 → Nat × Flags) : Res :=
  if o.b.allNull then { out := .nullVec }
  else
    let bp := o.b.poisoned
    let one (n : Nat) : Lane × Flags :=
      if o.mask.getD n false then
        match laneAt o.c.lanes n with
        | none => (none, {})
        | some (cw, cp) =>
          let elem (j : Nat) : Nat × Bool × Flags :=
            let e := n * t.elems + j
            let i := e - 32 * q
            match (if 32 * q ≤ e && e < 32 * q + 32 then laneAt o.a.lanes i else none) with
            | some (w, p) => let r := f w
              (r.1, p, r.2)
            | none => (elemOf t cw j, false, {})
          let es := (List.range t.elems).map elem
          (some (BitVec.ofNat 32 (packElems t (es.map (·.1))), cp || bp || es.any (·.2.1)), Flags.orAll (es.map (·.2.2)))
      else (none, {})
    let rs := (List.range 32).map one
    { out := .vec (rs.map (·.1)), flags := Flags.orAll (rs.map (·.2)) }

/-- VUNPK's Widen (R239): exact. -/
def widen (t : LaneType) (e : Nat) : Nat × Flags :=
  if t.isInt then (wrap 32 (laneInt t e), {})
  else
    let v := laneValue t e
    Fmt.fp32.round .rne v

/-- VUNPK (R239). -/
def unpack (t : LaneType) (o : Opnds) : Res :=
  if o.b.allNull then { out := .nullVec }
  else
    let q := o.b.num % 8 % t.elems
    let one (i : Nat) : Lane × Flags :=
      if o.mask.getD i false then
        match laneAt o.a.lanes ((32 * q + i) / t.elems) with
        | none => (none, {})
        | some (w, p) => let r := widen t (elemOf t w ((32 * q + i) % t.elems))
          (some (BitVec.ofNat 32 r.1, p || o.b.poisoned), r.2)
      else (none, {})
    let rs := (List.range 32).map one
    { out := .vec (rs.map (·.1)), flags := Flags.orAll (rs.map (·.2)) }

/-- VRND (R241): an integral value of the element's own format; no NX; a zero result keeps its operand's sign. -/
def roundIntegral (t : LaneType) (mode rm e : Nat) : Nat × Flags :=
  let m : Rm := match mode with
    | 0 => rmOf .row rm
    | 1 => .rne
    | 2 => .rtz
    | 3 => .rup
    | _ => .rdn
  match laneValue t e with
  | .nan s => ((laneFmt t).nanCode.getD 0, if s then Flags.invalid else {})
  | .inf _ => (e, {})
  | .fin neg n d =>
    let q := roundFrac m neg n d
    if q.2 then ((laneRound t .rtz (.fin neg q.1 1)).1, {}) else (e, {})

/-- VRAND (R242). -/
def random (t : LaneType) (o : Opnds) : Res :=
  if o.a.allNull then { out := .nullVec }
  else
    let one (l : Nat) : Lane :=
      if o.mask.getD l false then
        let w := randWord o.key o.cseed o.grow o.a.num l
        let v := match t with
          | .fp32 => (Fmt.fp32.round .rne (.fin false (w / 256) (2 ^ 24))).1
          | .bf16x2 => packElems t ((List.range 2).map fun j =>
              (Fmt.bf16.round .rne (.fin false (w / 2 ^ (16 * j + 8) % 256) 256)).1)
          | _ => w
        some (BitVec.ofNat 32 v, o.a.poisoned)
      else none
    { out := .vec ((List.range 32).map one) }

/-- VBCE (R243): every element is element e of A. -/
def broadcast (t : LaneType) (e : Nat) (o : Opnds) : Res :=
  match laneAt o.a.lanes (e / t.elems) with
  | none => { out := .nullVec }
  | some (w, p) =>
    let v := BitVec.ofNat 32 (packElems t (List.replicate t.elems (elemOf t w (e % t.elems))))
    { out := .vec (o.mask.map fun m => if m then some (v, p) else none) }

/-- VSHUF (R244): element e of the result is the element of A that element e of B names. -/
def shuffle (t : LaneType) (o : Opnds) : Res :=
  let one (n : Nat) : Lane :=
    if o.mask.getD n false then
      match laneAt o.b.lanes n with
      | none => none
      | some (w, p) =>
        let srcs := (List.range t.elems).map fun j => elemOf t w j % (32 * t.elems)
        match gather (srcs.map fun k => laneAt o.a.lanes (k / t.elems)) with
        | none => none
        | some (ws, q) =>
          some (BitVec.ofNat 32 (packElems t ((List.range t.elems).map fun j =>
            elemOf t (ws.getD j 0) (srcs.getD j 0 % t.elems))), p || q)
    else none
  { out := .vec ((List.range 32).map one) }

/-- One level of the pairwise tree of R175: a pair with one null member yields the other unchanged. -/
def pairUp {α : Type} (f : α → α → α) : List (Option α) → List (Option α)
  | a :: b :: l => (match a, b with
      | some x, some y => some (f x y)
      | some x, none => some x
      | none, y => y) :: pairUp f l
  | l => l

/-- `n` levels of the tree. -/
def treeFold {α : Type} (f : α → α → α) : Nat → List (Option α) → List (Option α)
  | 0, l => l
  | n + 1, l => treeFold f n (pairUp f l)

/-- The elements of a vector in element order, null where their lane is (R175). -/
def elements (t : LaneType) (l : List Lane) : List (Option Nat) :=
  (List.range (32 * t.elems)).map fun k => (laneAt l (k / t.elems)).map fun w => elemOf t w.1 (k % t.elems)

/-- VRED (R245), over the fixed pairwise tree of R175. -/
def reduce (t : LaneType) (op : Nat) (o : Opnds) : Res :=
  if o.a.allNull then { out := .nullSca }
  else
    let es := elements t o.a.lanes
    let p := o.a.poisoned
    let m := rmOf .row o.rm
    let fin (r : Nat × Flags) : Res := { out := .ofNat r.1 p, flags := r.2 }
    if 3 ≤ op then
      let ws := (o.a.lanes.filterMap id).map fun x => x.1.toNat
      let f : Nat → Nat → Nat := if op = 3 then (· &&& ·) else if op = 4 then (· ||| ·) else (· ^^^ ·)
      match ws with
      | [] => { out := .nullSca }
      | w :: ws => fin (ws.foldl f w, {})
    else if t.isInt then
      let f : Int → Int → Int := if op = 0 then (· + ·) else if op = 1 then min else max
      match (treeFold f 8 (es.map fun e => e.map (laneInt t))).head? with
      | some (some v) => fin (wrap 64 v, {})
      | _ => { out := .nullSca }
    else if op = 0 then
      let wide (e : Nat) : Nat × Flags := ((Fmt.fp32.round .rne (laneValue t e)).1,
        if (laneValue t e).isSnan then Flags.invalid else {})
      let f (x y : Nat × Flags) : Nat × Flags :=
        let v := sumVals m [Fmt.fp32.decode x.1, Fmt.fp32.decode y.1]
        let r := Fmt.fp32.round m v.1
        (r.1, Flags.orAll [x.2, y.2, v.2, r.2])
      match (treeFold f 8 (es.map fun e => e.map wide)).head? with
      | some (some v) => fin v
      | _ => { out := .nullSca }
    else
      let f (x y : Nat × Flags) : Nat × Flags :=
        let r := minMaxElem (op == 2) t x.1 y.1
        (r.1, Flags.orAll [x.2, y.2, r.2])
      let wide (x : Nat) : Nat × Flags := (x, if (minMaxValue t x).isSnan then Flags.invalid else {})
      match (treeFold f 8 (es.map fun e => e.map wide)).head? with
      | some (some v) => fin ((Fmt.fp32.round .rne (laneValue t v.1)).1, v.2)
      | _ => { out := .nullSca }

/-- One combination of VSCAN (R246). -/
def scanStep (t : LaneType) (op : Nat) (m : Rm) (x y : Nat) : Nat × Flags :=
  if op = 0 then
    if t.isInt then (wrap t.width (laneInt t x + laneInt t y), {})
    else
      let v := sumVals m [laneValue t x, laneValue t y]
      let r := laneRound t m v.1
      (r.1, Flags.or v.2 r.2)
  else minMaxElem (op == 2) t x y

/-- Inclusive prefixes over elements, null elements skipped: outputs and flags. The first element is its own prefix, with its bits (R175; log
45). -/
def prefixes (f : Nat → Nat → Nat × Flags) : Option Nat → List (Option Nat) → List (Option Nat × Flags)
  | _, [] => []
  | acc, none :: es => (none, {}) :: prefixes f acc es
  | none, some e :: es => (some e, {}) :: prefixes f (some e) es
  | some a, some e :: es => let r := f a e
    (some r.1, r.2) :: prefixes f (some r.1) es

/-- VSCAN (R246): a lane the predicate does not select is treated as a null lane. Every element that contributes to an
output poisons it (R373). -/
def scan (t : LaneType) (op : Nat) (o : Opnds) : Res :=
  let l := (List.range 32).map fun i => if o.mask.getD i false then laneAt o.a.lanes i else none
  let out := prefixes (scanStep t op (rmOf .row o.rm)) none (elements t l)
  let one (i : Nat) : Lane :=
    match laneAt l i with
    | none => none
    | some _ =>
      let ws := (List.range t.elems).map fun j => ((out[i * t.elems + j]?).bind (·.1)).getD 0
      some (BitVec.ofNat 32 (packElems t ws),
        (l.take (i + 1)).any fun x => match x with | some (_, p) => p | none => false)
  { out := .vec ((List.range 32).map one), flags := Flags.orAll (out.map (·.2)) }

/-- VINS (R247). -/
def insertElem (t : LaneType) (o : Opnds) : Res :=
  if o.b.allNull || o.c.allNull then { out := .nullVec }
  else
    let e := o.c.num % 256 % (32 * t.elems)
    let one (i : Nat) : Lane :=
      if o.mask.getD i false then
        match laneAt o.a.lanes i with
        | none => none
        | some (w, p) =>
          if i = e / t.elems then
            some (BitVec.ofNat 32 (packElems t ((List.range t.elems).map fun j =>
              if j = e % t.elems then o.b.num else elemOf t w j)), p || o.b.poisoned || o.c.poisoned)
          else some (w, p || o.c.poisoned)
      else none
    { out := .vec ((List.range 32).map one) }

/-- VEXT (R247): sign-extended for I types, zero-extended for all others. -/
def extractElem (t : LaneType) (o : Opnds) : Res :=
  if o.b.allNull then { out := .nullSca }
  else
    let e := o.b.num % 256 % (32 * t.elems)
    match laneAt o.a.lanes (e / t.elems) with
    | none => { out := .nullSca }
    | some (w, p) =>
      let x := elemOf t w (e % t.elems)
      { out := .ofNat (if t.isInt then wrap 64 (laneInt t x) else x) (p || o.b.poisoned) }

/-- VCMPR (R248): the selected lanes of A in ascending order, or their number. -/
def compress (count : Bool) (o : Opnds) : Res :=
  let pick (i : Nat) : Lane :=
    match laneAt o.a.lanes i, laneAt o.b.lanes i with
    | some (w, p), some (v, q) => if v != 0 then some (w, p || q) else none
    | _, _ => none
  let sel := ((List.range 32).map pick).filterMap id
  let bp := o.b.poisoned
  if count then { out := .ofNat sel.length bp }
  else
    { out := .vec ((List.range 32).map fun i =>
        if o.mask.getD i false then (sel[i]?).map fun x => (x.1, x.2 || bp) else none) }

/-- `VADD` (R232 to R234). -/
def execVadd (x : XMode) (t1 : Target) (t0 : Target) (p : Pred) (t : LaneType) (s : State) : Host.Outcome State Fault Refusal :=
  fireToken (.vadd x t1 t0 p t) (fun o => arith .add t x o) s

/-- `VADD_F16` (R201, R232 to R234). -/
def execVadd_F16 (t0 : Target) (st : ShortType) (s : State) : Host.Outcome State Fault Refusal :=
  fireToken (.vadd_F16 t0 st) (fun o => arith .add st.lane .row o) s

/-- `VSUB` (R232 to R234). -/
def execVsub (x : XMode) (t1 : Target) (t0 : Target) (p : Pred) (t : LaneType) (s : State) : Host.Outcome State Fault Refusal :=
  fireToken (.vsub x t1 t0 p t) (fun o => arith .sub t x o) s

/-- `VSUB_F16` (R201, R232 to R234). -/
def execVsub_F16 (t0 : Target) (st : ShortType) (s : State) : Host.Outcome State Fault Refusal :=
  fireToken (.vsub_F16 t0 st) (fun o => arith .sub st.lane .row o) s

/-- `VMUL` (R232 to R234). -/
def execVmul (x : XMode) (t1 : Target) (t0 : Target) (p : Pred) (t : LaneType) (s : State) : Host.Outcome State Fault Refusal :=
  fireToken (.vmul x t1 t0 p t) (fun o => arith .mul t x o) s

/-- `VMUL_F16` (R201, R232 to R234). -/
def execVmul_F16 (t0 : Target) (st : ShortType) (s : State) : Host.Outcome State Fault Refusal :=
  fireToken (.vmul_F16 t0 st) (fun o => arith .mul st.lane .row o) s

/-- `VMULH` (R232). -/
def execVmulh (t1 : Target) (t0 : Target) (p : Pred) (t : LaneType) (s : State) : Host.Outcome State Fault Refusal :=
  fireToken (.vmulh t1 t0 p t) (fun o => intLanes t [o.a, o.b] o fun v => wrap t.width ((v.getD 0 0 * v.getD 1 0).fdiv (2 ^ t.width))) s

/-- `VFMA` (R232 to R234). -/
def execVfma (x : XMode) (t1 : Target) (t0 : Target) (p : Pred) (t : LaneType) (s : State) : Host.Outcome State Fault Refusal :=
  fireToken (.vfma x t1 t0 p t) (fun o => fmaLanes t x o) s

/-- `VFMA_F16` (R201, R232 to R234). -/
def execVfma_F16 (t0 : Target) (st : ShortType) (s : State) : Host.Outcome State Fault Refusal :=
  fireToken (.vfma_F16 t0 st) (fun o => fmaLanes st.lane .row o) s

/-- `VMIN` (R232, R234). -/
def execVmin (t1 : Target) (t0 : Target) (p : Pred) (t : LaneType) (s : State) : Host.Outcome State Fault Refusal :=
  fireToken (.vmin t1 t0 p t) (fun o => minMax false t o) s

/-- `VMIN_F16` (R201, R232, R234). -/
def execVmin_F16 (t0 : Target) (st : ShortType) (s : State) : Host.Outcome State Fault Refusal :=
  fireToken (.vmin_F16 t0 st) (fun o => minMax false st.lane o) s

/-- `VMAX` (R232, R234). -/
def execVmax (t1 : Target) (t0 : Target) (p : Pred) (t : LaneType) (s : State) : Host.Outcome State Fault Refusal :=
  fireToken (.vmax t1 t0 p t) (fun o => minMax true t o) s

/-- `VMAX_F16` (R201, R232, R234). -/
def execVmax_F16 (t0 : Target) (st : ShortType) (s : State) : Host.Outcome State Fault Refusal :=
  fireToken (.vmax_F16 t0 st) (fun o => minMax true st.lane o) s

/-- `VAND` (R235). -/
def execVand (t1 : Target) (t0 : Target) (p : Pred) (t : LaneType) (s : State) : Host.Outcome State Fault Refusal :=
  fireToken (.vand t1 t0 p t) (fun o => laneWise o.mask [o.a, o.b] fun w => (w.getD 0 0 &&& w.getD 1 0, {})) s

/-- `VAND_F16` (R201, R235). -/
def execVand_F16 (t0 : Target) (st : ShortType) (s : State) : Host.Outcome State Fault Refusal :=
  fireToken (.vand_F16 t0 st) (fun o => laneWise o.mask [o.a, o.b] fun w => (w.getD 0 0 &&& w.getD 1 0, {})) s

/-- `VOR` (R235). -/
def execVor (t1 : Target) (t0 : Target) (p : Pred) (t : LaneType) (s : State) : Host.Outcome State Fault Refusal :=
  fireToken (.vor t1 t0 p t) (fun o => laneWise o.mask [o.a, o.b] fun w => (w.getD 0 0 ||| w.getD 1 0, {})) s

/-- `VOR_F16` (R201, R235). -/
def execVor_F16 (t0 : Target) (st : ShortType) (s : State) : Host.Outcome State Fault Refusal :=
  fireToken (.vor_F16 t0 st) (fun o => laneWise o.mask [o.a, o.b] fun w => (w.getD 0 0 ||| w.getD 1 0, {})) s

/-- `VXOR` (R235). -/
def execVxor (t1 : Target) (t0 : Target) (p : Pred) (t : LaneType) (s : State) : Host.Outcome State Fault Refusal :=
  fireToken (.vxor t1 t0 p t) (fun o => laneWise o.mask [o.a, o.b] fun w => (w.getD 0 0 ^^^ w.getD 1 0, {})) s

/-- `VXOR_F16` (R201, R235). -/
def execVxor_F16 (t0 : Target) (st : ShortType) (s : State) : Host.Outcome State Fault Refusal :=
  fireToken (.vxor_F16 t0 st) (fun o => laneWise o.mask [o.a, o.b] fun w => (w.getD 0 0 ^^^ w.getD 1 0, {})) s

/-- `VSHL` (R235). -/
def execVshl (x : XMode) (t1 : Target) (t0 : Target) (p : Pred) (t : LaneType) (s : State) : Host.Outcome State Fault Refusal :=
  fireToken (.vshl x t1 t0 p t) (fun o => shiftLeft t (x == .rne) o) s

/-- `VSHL_F16` (R201, R235). -/
def execVshl_F16 (t0 : Target) (st : ShortType) (s : State) : Host.Outcome State Fault Refusal :=
  fireToken (.vshl_F16 t0 st) (fun o => shiftLeft st.lane false o) s

/-- `VSHR` (R235). -/
def execVshr (t1 : Target) (t0 : Target) (p : Pred) (t : LaneType) (s : State) : Host.Outcome State Fault Refusal :=
  fireToken (.vshr t1 t0 p t) (fun o => shiftRight t o) s

/-- `VSHR_F16` (R201, R235). -/
def execVshr_F16 (t0 : Target) (st : ShortType) (s : State) : Host.Outcome State Fault Refusal :=
  fireToken (.vshr_F16 t0 st) (fun o => shiftRight st.lane o) s

/-- `VADDI` (R235). -/
def execVaddi (imm : BitVec 10) (t0 : Target) (p : Pred) (t : LaneType) (s : State) : Host.Outcome State Fault Refusal :=
  fireToken (.vaddi imm t0 p t) (fun o => intLanes t [o.a] o fun v => wrap t.width (v.getD 0 0 + imm.toInt)) s

/-- `VDOT` (R236). -/
def execVdot (x : XMode) (t1 : Target) (t0 : Target) (p : Pred) (t : LaneType) (s : State) : Host.Outcome State Fault Refusal :=
  fireToken (.vdot x t1 t0 p t) (fun o => dot t x o) s

/-- `VDOT_F16` (R201, R236). -/
def execVdot_F16 (t0 : Target) (st : ShortType) (s : State) : Host.Outcome State Fault Refusal :=
  fireToken (.vdot_F16 t0 st) (fun o => dot st.lane .row o) s

/-- `VDIV` (R237, R178, R179). -/
def execVdiv (x : XMode) (t1 : Target) (t0 : Target) (p : Pred) (s : State) : Host.Outcome State Fault Refusal :=
  fireToken (.vdiv x t1 t0 p) (fun o => fpLanes .fp32 x [o.a, o.b] o fun _ v => (v.getD 0 (.nan false)).div (v.getD 1 (.nan false))) s

/-- `VSQRT` (R237, R178, R179). -/
def execVsqrt (x : XMode) (t1 : Target) (t0 : Target) (p : Pred) (s : State) : Host.Outcome State Fault Refusal :=
  fireToken (.vsqrt x t1 t0 p) (fun o => fpLanes .fp32 x [o.a] o fun _ v => (v.getD 0 (.nan false)).sqrt) s

/-- `VRCP` (R237, R178, R179). -/
def execVrcp (t1 : Target) (t0 : Target) (p : Pred) (s : State) : Host.Outcome State Fault Refusal :=
  fireToken (.vrcp t1 t0 p) (fun o => laneWise o.mask [o.a] fun w => let r := specialFn 0 (w.getD 0 0).toNat
    (BitVec.ofNat 32 r.1, r.2)) s

/-- `VRSQ` (R237, R178, R179). -/
def execVrsq (t1 : Target) (t0 : Target) (p : Pred) (s : State) : Host.Outcome State Fault Refusal :=
  fireToken (.vrsq t1 t0 p) (fun o => laneWise o.mask [o.a] fun w => let r := specialFn 1 (w.getD 0 0).toNat
    (BitVec.ofNat 32 r.1, r.2)) s

/-- `VEXP2` (R237, R178, R179). -/
def execVexp2 (t1 : Target) (t0 : Target) (p : Pred) (s : State) : Host.Outcome State Fault Refusal :=
  fireToken (.vexp2 t1 t0 p) (fun o => laneWise o.mask [o.a] fun w => let r := specialFn 2 (w.getD 0 0).toNat
    (BitVec.ofNat 32 r.1, r.2)) s

/-- `VLOG2` (R237, R178, R179). -/
def execVlog2 (t1 : Target) (t0 : Target) (p : Pred) (s : State) : Host.Outcome State Fault Refusal :=
  fireToken (.vlog2 t1 t0 p) (fun o => laneWise o.mask [o.a] fun w => let r := specialFn 3 (w.getD 0 0).toNat
    (BitVec.ofNat 32 r.1, r.2)) s

/-- `VCVT` (R238). -/
def execVcvt (mode : BitVec 2) (src : LaneType) (t0 : Target) (p : Pred) (t : LaneType) (s : State) : Host.Outcome State Fault Refusal :=
  fireToken (.vcvt mode src t0 p t) (fun o => laneWise o.mask [o.a] fun w => elementwise t w fun e => convert t src mode.toNat o.rm (e.getD 0 0)) s

/-- `VCVTS` (R240, R177). -/
def execVcvts (x : XMode) (t1 : Target) (t0 : Target) (p : Pred) (t : LaneType) (s : State) : Host.Outcome State Fault Refusal :=
  fireToken (.vcvts x t1 t0 p t) (fun o => packInto t o (scaledPart t o) (scaledNarrow t x o)) s

/-- `VPACK` (R239). -/
def execVpack (x : XMode) (t1 : Target) (t0 : Target) (p : Pred) (t : LaneType) (s : State) : Host.Outcome State Fault Refusal :=
  fireToken (.vpack x t1 t0 p t) (fun o => packInto t o (o.b.num % 8 % t.elems) (narrow t x o)) s

/-- `VUNPK` (R239). -/
def execVunpk (t1 : Target) (t0 : Target) (p : Pred) (t : LaneType) (s : State) : Host.Outcome State Fault Refusal :=
  fireToken (.vunpk t1 t0 p t) (fun o => unpack t o) s

/-- `VRND` (R241). -/
def execVrnd (imm : BitVec 10) (t0 : Target) (p : Pred) (t : LaneType) (s : State) : Host.Outcome State Fault Refusal :=
  fireToken (.vrnd imm t0 p t) (fun o => laneWise o.mask [o.a] fun w => elementwise t w fun e => roundIntegral t imm.toNat o.rm (e.getD 0 0)) s

/-- `VRAND` (R242, R180). -/
def execVrand (t1 : Target) (t0 : Target) (p : Pred) (t : LaneType) (s : State) : Host.Outcome State Fault Refusal :=
  fireToken (.vrand t1 t0 p t) (fun o => random t o) s

/-- `VBCE` (R243). -/
def execVbce (imm : BitVec 10) (t0 : Target) (p : Pred) (t : LaneType) (s : State) : Host.Outcome State Fault Refusal :=
  fireToken (.vbce imm t0 p t) (fun o => broadcast t imm.toNat o) s

/-- `VSHUF` (R244). -/
def execVshuf (t1 : Target) (t0 : Target) (p : Pred) (t : LaneType) (s : State) : Host.Outcome State Fault Refusal :=
  fireToken (.vshuf t1 t0 p t) (fun o => shuffle t o) s

/-- `VRED` (R245). -/
def execVred (imm : BitVec 10) (t0 : Target) (p : Pred) (t : LaneType) (s : State) : Host.Outcome State Fault Refusal :=
  fireToken (.vred imm t0 p t) (fun o => reduce t imm.toNat o) s

/-- `VSCAN` (R246). -/
def execVscan (imm : BitVec 10) (t0 : Target) (p : Pred) (t : LaneType) (s : State) : Host.Outcome State Fault Refusal :=
  fireToken (.vscan imm t0 p t) (fun o => scan t imm.toNat o) s

/-- `VINS` (R247). -/
def execVins (t1 : Target) (t0 : Target) (p : Pred) (t : LaneType) (s : State) : Host.Outcome State Fault Refusal :=
  fireToken (.vins t1 t0 p t) (fun o => insertElem t o) s

/-- `VEXT` (R247). -/
def execVext (t1 : Target) (t0 : Target) (p : Pred) (t : LaneType) (s : State) : Host.Outcome State Fault Refusal :=
  fireToken (.vext t1 t0 p t) (fun o => extractElem t o) s

/-- `VCMPR` (R248). -/
def execVcmpr (t1 : Target) (t0 : Target) (p : Pred) (u : Bool) (s : State) : Host.Outcome State Fault Refusal :=
  fireToken (.vcmpr t1 t0 p u) (fun o => compress u o) s

end Sys2Proof.Machine
end

