-- ==== Sys2Proof/Machine/Barrier.lean ====
section
/-!
DEFINITION. Shared operations of the mesh, barrier objects (R280 to R283) and event lines (R286, R287): performing an
arrival, evaluating and flipping an object, waking rows, and performing a signal or a store on a line.
-/

namespace Sys2Proof.Machine

/-- No row: what the device does on its own. -/
def Origin.device (core : Nat) : Origin := { core := core, rid := 512, lsid := 0, isExit := false, gang := 0, func := 0, seq := 0 }

/-- The cores of a gang, both copies of a paired one. -/
def Gang.allCores (g : Gang) : List Nat :=
  (List.range (g.groups * g.cores)).map (g.first + ·)
    ++ (if g.paired then (List.range (g.groups * g.cores)).map (g.firstB + ·) else [])

/-- Rows of a core that have a record, by ROWID. -/
def State.rowsOf (s : State) (core : Nat) : List Nat :=
  (s.rows.filter fun r => r.1 / 512 == core).map fun r => r.1 % 512

/-- A row's condition has held: it becomes ready in the next cycle (R209). -/
def wakeRow (core rid : Nat) : Act := modRow core rid fun r => { r with wake := true }

/-- WAITK, WAITOBJ and WPH of a row that waits, or that will from its boundary on, its condition having been found unmet (R209). -/
def State.waitsOn (s : State) (core rid : Nat) : Option (Nat × Nat × Nat) :=
  (((s.slot? core rid).bind (·.inst.exit)).bind (·.wait)).orElse fun _ =>
    if s.code core rid = 3 then some (s.waitk core rid, s.waitobj core rid, s.wph core rid) else none

/-- Rows of a core that wait with a WAITK on an object, and whose WPH satisfies `p`, wake: from the judgment of their condition on they miss no
change of it (R209). -/
def wakeWaiters (core k obj : Nat) (p : Nat → Bool) : Act :=
  .get fun s => .each ((s.rowsOf core).filter fun r =>
    (s.waitsOn core r).any fun w => w.1 == k && w.2.1 == obj && p w.2.2) fun r => wakeRow core r

/-! ### Messages of paired gangs (R363) -/

/-- A message of the kinds that R363 lists: those that leave the row's core, event signals, postings and chunks of write data. -/
def Msg.leaves (m : Msg) : Bool :=
  match m.pay with
  | .lineStore .. => false
  | .signal .. | .post .. | .chunk _ => true
  | _ => m.dst != m.src

/-- A core as both copies of a paired gang see it: its gang-local index, or 512 and up outside the gang. -/
def Gang.localCore (g : Gang) (c : Nat) : Nat :=
  let n := g.groups * g.cores
  if g.first ≤ c ∧ c < g.first + n then c - g.first else if g.firstB ≤ c ∧ c < g.firstB + n then c - g.firstB else 512 + c

/-- A core of a gang, either copy. -/
def Gang.holds (g : Gang) (c : Nat) : Bool := g.localCore c < 512

/-- The core of one copy of a paired gang that stands for a core of either; another core is itself. -/
def Gang.inCopy (g : Gang) (copyB : Bool) (c : Nat) : Nat :=
  if g.holds c then (if copyB then g.firstB else g.first) + g.localCore c else c

/-- The other copy's core of a paired gang on a core. -/
def Gang.twin (g : Gang) (c : Nat) : Nat :=
  if g.first ≤ c ∧ c < g.first + g.groups * g.cores then g.firstB + (c - g.first) else g.first + (c - g.firstB)

/-- A message from outside to a core of a paired gang reaches both copies: the second one's, held and acknowledged like the first (R363). A
signal or a store to an event line goes to a cluster's line, not to a core. -/
def State.secondCopy (s : State) (m : Msg) : Option Msg :=
  match m.pay with
  | .store .. | .atomic .. | .arrive .. | .opa _ =>
    (s.gangOn? m.dst).bind fun g => if g.paired && g.id != m.org.gang then
      some { m with dst := g.twin m.dst, pair := none, org := { m.org with copy := true } } else none
  | _ => none

/-- The second copy follows a message. -/
def sendTwin (m : Msg) : Act := .get fun s => (s.secondCopy m).elim .done send

/-- The tag of a message of a core of a paired gang: `grow` and `n` name the message among those of its copy. -/
def Gang.tag (g : Gang) (core grow n : Nat) : PairTag :=
  { gang := g.id, grow := grow, n := n, copyB := !(g.first ≤ core && core < g.first + g.groups * g.cores) }

/-- Send a message of a row: one of a paired gang waits for its partner (R363). `n?` numbers what a command sends; other messages are
numbered as they leave. -/
def sendPaired (org : Origin) (m : Msg) (n? : Option Nat) : Act :=
  .get fun s =>
    match (s.gang? org.gang).filter fun g => g.paired && m.leaves with
    | some g =>
      .all [send { m with pair := some (g.tag org.core (s.rowLe org.core org.rid 0x50 8 % 2 ^ 17)
              (n?.getD (4 * (s.row? org.core org.rid).elim 0 (·.pairSeq)))) },
            .when n?.isNone (modRow org.core org.rid fun r => { r with pairSeq := r.pairSeq + 1 })]
    | none => .all [send m, sendTwin m]

/-! ### Barrier objects -/

/-- WMARK of a tile, its STATE and the gang that owned or pinned it (R257). -/
def State.ownWord (s : State) (core t : Nat) : Nat := s.le (Space.loc core (0x01301000 + 32 * t)) 8

/-- Tiles that a gang holds on a core, transient or pinned. -/
def State.tilesOf (s : State) (core g : Nat) : List Nat :=
  (List.range 4).filter fun t => bits (s.ownWord core t) 63 62 != 0 && bits (s.ownWord core t) 45 30 == g

/-- A key of `mem` that a superstep log of a core covers (R365). -/
def snapKey (core : Nat) (tiles : List Nat) (k : Nat) : Bool :=
  let a := k % 2 ^ 32
  k / 2 ^ 32 == core && (a < 0x200000 || (0x01000000 ≤ a && a < 0x01200000)
    || (0x01200000 ≤ a && a < 0x01240000 && tiles.contains ((a - 0x01200000) / 0x10000)))

/-- The passes of its REP block that a row has committed, which its block-state area holds (R61, R66). -/
def State.repDone (s : State) (core rid : Nat) (r : RowSt) : Nat :=
  match s.slot? core rid with
  | some x => match x.phase with | .closing _ => r.rep | _ => x.inst.pass
  | none => r.rep

/-- What a step that begins now on a core of a gang would be rolled back to. -/
def State.snapOf (s : State) (gang core : Nat) : Snap :=
  let tiles := s.tilesOf core gang
  { gang := gang, core := core, cells := s.mem.filter fun c => snapKey core tiles c.1
    poison := s.poison.filter (snapKey core tiles), opsKey := s.opsKey.filter fun k => k.1 / 2 ^ 32 == core
    tiles := tiles.map fun t => (t, bits (s.ownWord core t) 23 16)
    rows := (s.rows.filter fun r => r.1 / 512 == core).map fun r => (r.1, { r.2 with rep := s.repDone core (r.1 % 512) r.2 })
    forks := s.forks.filter fun f => f.core == core
    pool := (s.coreSt core).pool, armed := (s.coreSt core).armed, cdone := (s.coreSt core).cdone, sentUp := (s.coreSt core).sentUp,
    logged := none, touched := [] }

/-- Snapshot point of a superstep gang at a core (R365): its log starts anew and the core reports. The log is held as what the
step would be rolled back to. -/
def snapshot (core : Nat) : Act :=
  .get fun s => match s.gangOn? core with
    | some g => .when g.superstep (
        .all [upd fun s => { s with snaps := s.snaps.filter (fun e => e.core != core) ++ [s.snapOf g.id core] },
              modGang g.id fun g => { g with snapshots := insertSorted core g.snapshots }])
    | none => .done

/-- Objects of a core with CDONE = 1 that name an object as parent (R281). -/
def State.children (s : State) (core pcore paddr : Nat) : List Nat :=
  (s.coreSt core).cdone.filter fun a => s.loc core (a + 0x0C) 4 == pcore * 2 ^ 24 + paddr

/-- The arrival of a completed object at its parent (R281): of a paired gang it is numbered by the object. -/
def sendUp (org : Origin) (core a par : Nat) : Act :=
  .get fun s =>
    let m : Msg := { src := core, dst := par / 2 ^ 24, org := { org with seq := 0 }, pay := .arrive (par % 2 ^ 21) 1 0 0 }
    let n := (Tab.find? (s.coreSt core).sentUp a).getD 0
    match (s.gangOn? core).filter fun g => g.paired && m.leaves with
    | some g => .all [modCore core fun c => { c with sentUp := Tab.set c.sentUp a (n + 1) },
        send { m with pair := some (g.tag core (2 ^ 17 + 2 ^ 21 * g.localCore core + a) n) }]
    | none => .all [send m, sendTwin m]

/-- A depth that no cascade of flips at a core exceeds: each flip uses up an arrival, or takes an object out of those with CDONE = 1. -/
def State.flipDepth (s : State) (core : Nat) : Nat :=
  2 * ((s.coreSt core).armed.map fun a => s.loc core (a + 8) 4).sum + 2 * (s.coreSt core).armed.length + 128

/-- Flip an object (`flip`), or evaluate it after an arrival (R281), with `n` the depth left. -/
def barrierStep : Nat → Bool → Origin → Nat → Nat → Act
  | 0, _, _, _, _ => .done
  | n + 1, true, org, core, a =>
    .get fun s =>
      let w := s.loc core a 1
      let ph := 1 - w % 2
      let kids := s.children core core a
      .all [writeNum core a 1 (w - w % 2 + ph),
            wakeWaiters core 1 a (· == ph),
            .each kids fun y => .all [
              modCore core fun c => { c with cdone := c.cdone.erase y },
              putBits (Space.loc core y) 4 5 5 0,
              barrierStep n true org core y],
            .when (bit w 4) (.all [snapshot core,
              match s.gangOn? core with
              | some g => modGang g.id fun g => { g with barrier := some (core, a), rollbacks := 0 }
              | none => .done]),
            (match s.gangOn? core with
             | some g => .each (g.allCores.filter (· != core)) fun d =>
                 send { src := core, dst := d, org := Origin.device core, pay := .flip core a }
             | none => .done),
            .when (!kids.isEmpty) (.each (s.coreSt core).armed fun y => barrierStep n false org core y),
            barrierStep n false org core a]
  | n + 1, false, org, core, a =>
    .get fun s =>
      let w := s.loc core a 1
      let expa := s.loc core (a + 4) 4
      let arra := s.loc core (a + 8) 4
      let expb := s.loc core (a + 0x10) 8
      let arrb := s.loc core (a + 0x18) 8
      let par := s.loc core (a + 0x0C) 4
      if bit w 3 && !bit w 5 && expa ≤ arra && expb ≤ arrb && 1 ≤ expa then
        if par % 2 ^ 21 ≠ 0 ∧ 32 ≤ (s.coreSt core).cdone.length then .done
        else
          .all [writeNum core (a + 8) 4 (arra - expa), writeNum core (a + 0x18) 8 (arrb - expb), writeNum core (a + 0x10) 8 0,
                if par % 2 ^ 21 = 0 then barrierStep n true org core a
                else .all [
                  putBits (Space.loc core a) 4 5 5 1,
                  modCore core fun c => { c with cdone := insertSorted a c.cdone },
                  sendUp org core a par]]
      else .done

/-- Arrivals and bytes reach an object (R280, R281, R283): EXPB takes `expect` first. Answers the condition it raises:
0x0403 where the object is not armed, 0x0804 where it is poisoned (R375). -/
def arriveAt (org : Origin) (core a arrivals bytes expect : Nat) (k : Option Cond → Act) : Act :=
  .all [injectBytes core ((List.range 32).map (a + ·)) org.func, .get fun s =>
    if let some p := s.firstPoisoned core ((List.range 8).map (a + 4 * ·)) then k (some (condOf org 0x0804 core p))
    else if !bit (s.loc core a 1) 3 then k (some (condOf org 0x0403 core a))
    else
      .all [writeNum core (a + 0x10) 8 (s.loc core (a + 0x10) 8 + expect),
            writeNum core (a + 8) 4 (s.loc core (a + 8) 4 + arrivals),
            writeNum core (a + 0x18) 8 (s.loc core (a + 0x18) 8 + bytes),
            .get fun s => barrierStep (s.flipDepth core) false org core a,
            k none]]

/-- Bytes counted into a barrier named in barrier form: core in [31:24], address in [20:0]; 0 names none (R126). `n` numbers the
count among those of a paired gang's row. -/
def countBytes (org : Origin) (src form bytes n : Nat) : Act :=
  if form = 0 ∨ bytes = 0 then .done
  else if form / 2 ^ 24 % 256 = src then
    arriveAt org src (form % 2 ^ 21) 0 bytes 0 fun c => acknowledge src org c false
  else sendPaired org { src := src, dst := form / 2 ^ 24 % 256, org := org, pay := .arrive (form % 2 ^ 21) 0 bytes 0 } (some n)

/-! ### Event lines (R286, R287) -/

/-- Key of line `l` of a cluster. -/
def lineKey (cluster l : Nat) : Nat := Space.event cluster (64 * l)

/-- Whether a line is assigned to a function (R286, R306: EVTAB) and, where it is bound to a group, a row holds it. -/
def State.lineOwned (s : State) (cluster l core rid : Nat) (groups : Bool) : Bool :=
  let e := s.bar 0 (0x12000 + 2 * (64 * cluster + l)) 2
  let w := s.le (lineKey cluster l) 4
  let g := s.rowLe core rid 0x4C 4
  let n := bits (s.rowLe core rid 0x50 8) 58 56
  bit e 15 && e % 1024 == s.tenant core rid
    && (!groups || !bit w 24 || (List.range n).any fun i => bits g (8 * i + 7) (8 * i) == bits w 23 16)

/-- AINFO of a line (R348). -/
def lineInfo (cluster l : Nat) : Nat := cluster * 256 + l

/-- WAITOBJ of a row that waits on a line, or will from its boundary on, and that the line has not released (R209, R287). -/
def State.lineObj (s : State) (core rid l : Nat) : Option Nat :=
  if (s.row? core rid).any (·.wake) then none
  else ((s.waitsOn core rid).filter fun w => w.1 == 2 && w.2.1 % 64 == l).map (·.2.1)

/-- Rows that wait on a line: core and ROWID, in ascending order. -/
def State.lineWaiters (s : State) (cluster l : Nat) : List (Nat × Nat) :=
  (s.rows.map fun r => (r.1 / 512, r.1 % 512)).filter fun r => clusterOf r.1 == cluster && (s.lineObj r.1 r.2 l).isSome

/-- Release rows that wait on a line; WAITERS falls. -/
def releaseWaiters (cluster l : Nat) (rs : List (Nat × Nat)) : Act :=
  .all [.each rs fun r => wakeRow r.1 r.2,
        .get fun s =>
          let w := s.le (lineKey cluster l + 4) 4
          putLe (lineKey cluster l + 4) 4 (w - min (w % 65536) rs.length)]

/-- One arrival at a barrier line: at EXP the phase flips, the waiters are released and the chain goes on (R287). -/
def lineArrive (org : Origin) (cluster l : Nat) : Act :=
  .get fun s =>
    let k := lineKey cluster l
    let w := s.le k 4
    let arr := s.le (k + 6) 2 + 1
    let c := s.le (k + 0x0C) 4
    if w % 65536 ≤ arr then
      .all [putLe (k + 6) 2 (arr - w % 65536), putBits k 4 29 29 (1 - bits w 29 29),
            releaseWaiters cluster l (s.lineWaiters cluster l),
            .when (bit c 31) (send { src := 16 * cluster, dst := 16 * bits c 19 16, org := { org with seq := 0, rid := 512 },
                                     pay := .signal (bits c 19 16) (c % 64) (bits c 9 8) })]
    else putLe (k + 6) 2 arr

/-- The waiting row with the oldest ticket of a mutex line (R287). -/
def State.oldestTicket (s : State) (cluster l : Nat) : Option (Nat × Nat) :=
  let next := s.le (lineKey cluster l + 0x14) 2
  let age (r : Nat × Nat) : Nat := (next + 65536 - bits ((s.lineObj r.1 r.2 l).getD 0) 21 6) % 65536
  (s.lineWaiters cluster l).foldl (fun best r => match best with
    | none => some r
    | some b => if age b < age r then some r else some b) none

/-- A signal reaches a line (R287, R288). Answers the condition it raises: 0x0405 or 0x0407, 0x0804 for poison (R375). -/
def signalLine (org : Origin) (cluster l op : Nat) (k : Option Cond → Act) : Act :=
  .get fun s =>
    let key := lineKey cluster l
    let w := s.le key 4
    let own := org.rid == 512 || s.lineOwned cluster l org.core org.rid true
    let count : Act := putLe (key + 0x10) 4 (s.le (key + 0x10) 4 + 1)
    let bad (code : Nat) : Act := k (some (condOf org code org.core (lineInfo cluster l)))
    if let some i := (List.range 6).find? fun i => s.poisoned (key + 4 * i) then k (some (condOf org 0x0804 org.core (0x01400000 + 64 * l + 4 * i)))
    else if !own then bad 0x0405
    else match bits w 31 30, op with
      | 1, 0 => .all [count, lineArrive org cluster l, k none]
      | 2, 0 =>
        let h := s.le (key + 8) 4
        if bit w 27 && bits h 31 24 == org.core && h % 512 == org.rid then
          .all [count,
                match s.oldestTicket cluster l with
                | some r => .all [putLe (key + 8) 4 (r.1 * 2 ^ 24 + r.2), releaseWaiters cluster l [r]]
                | none => putBits key 4 27 27 0,
                k none]
        else bad 0x0407
      | 3, 0 => .all [count, putBits key 4 28 28 1, releaseWaiters cluster l (s.lineWaiters cluster l), k none]
      | 3, 1 => .all [count, putBits key 4 28 28 0, k none]
      | 3, 2 => .all [count, releaseWaiters cluster l (s.lineWaiters cluster l), k none]
      | _, _ => bad 0x0407

/-- A store to a line's window reaches it (R286): words 0x00 and 0x0C are written only while WAITERS = 0; a store to word
0x00 resets the state fields; other words are read-only. A poisoned word is unspecified, and stays marked (R373). -/
def storeLine (org : Origin) (cluster off : Nat) (bs : List PByte) (k : Option Cond → Act) : Act :=
  .get fun s =>
    let l := off / 64
    let key := lineKey cluster l
    let bad (code : Nat) : Act := k (some (condOf org code org.core (lineInfo cluster l)))
    let word (f : Nat → Act) : Act :=
      if bs.any (·.poison) then free fun v => .all [f v, poisonAt (key + off % 64)]
      else .all [f (leNat (bs.map (·.byte))), unpoison (key + off % 64) 4]
    if !s.lineOwned cluster l org.core org.rid false then bad 0x0405
    else if off % 64 ≠ 0 ∧ off % 64 ≠ 0x0C then k none
    else if s.le (key + 4) 2 ≠ 0 then bad 0x0406
    else if off % 64 = 0 then
      .all [word fun v => putLe key 4 (bits v 31 30 * 2 ^ 30 + bits v 24 24 * 2 ^ 24 + bits v 23 16 * 2 ^ 16 + v % 65536),
            putLe (key + 6) 2 0, putLe (key + 8) 4 0, unpoison (key + 8) 4, putLe (key + 0x14) 2 0, k none]
    else
      .all [word fun v => putLe (key + 0x0C) 4 (bits v 31 31 * 2 ^ 31 + bits v 19 16 * 2 ^ 16 + bits v 9 8 * 256 + v % 64), k none]

/-! ### The inbound buffer (R74) -/

/-- Bank of a local SRAM address. -/
def bankAt (a : Nat) : Nat := a / 0x40000

/-- Whether something held takes an entry of the inbound buffer: what came from outside the core or from its engines. -/
def Held.entry : Held → Bool
  | .store _ _ f | .atomic _ _ f => f != .own
  | .bins .. => true
  | _ => false

/-- Entries of a bank's inbound buffer in use. -/
def State.inbound (s : State) (core bank : Nat) : Nat :=
  (((s.rowsOf core).filter fun r => r / 64 == bank).map fun r => (s.row? core r).elim 0 fun x => (x.held.filter Held.entry).length).sum

/-- The inbound buffers, of 32 entries each, have room for what stores from outside the rows would have held. -/
def State.hasRooms (s : State) (core : Nat) (stores : List (List PByte)) : Bool :=
  let banks := stores.flatMap fun bs => (s.heldParts core noRow bs).map fun p => p.1 / 64
  banks.all fun b => s.inbound core b + banks.count b ≤ 32

/-- The inbound buffers have room for what one store would have held. -/
def State.hasRoom (s : State) (core : Nat) (bs : List PByte) : Bool := s.hasRooms core [bs]

/-- The arrival port accepts an access to some bytes: the inbound buffer of no bank they lie in is full, and what is held finds room
(R74). -/
def State.accepts (s : State) (core : Nat) (bs : List PByte) : Bool :=
  bs.all (fun b => s.inbound core (bankAt b.addr) < 32) && s.hasRoom core bs

/-- The width of an atomic in bytes (R277): T 13 and 14 give 8, the others 4. -/
def atomicWidth (t : LaneType) : Nat := if t.isScalar then 8 else 4

/-! ### Messages -/

/-- The bytes that a store or an atomic brings to the arrival port of its core. -/
def Msg.brings (m : Msg) : Option (List PByte) :=
  match m.pay with
  | .store _ _ bs _ => some bs
  | .atomic op _ => some (pbytes op.addr (atomicWidth op.ty) 0 false)
  | _ => none

/-- A message waits for room at the arrival port of its core, and holds back every later arrival from its source core (R74). -/
def State.portWaits (s : State) (m : Msg) : Bool := !m.held && m.pair.isNone && m.brings.any fun bs => !s.accepts m.dst bs

/-- A message is a store, an atomic or an arrival, which the port of its core takes. -/
def Msg.arrival (m : Msg) : Bool := match m.pay with | .store .. | .atomic .. | .arrive .. => true | _ => false

/-- The order class of a message: R142 for accesses, R150 for commands, R288 for signals; others are not ordered. -/
def Payload.cls : Payload → Option Nat
  | .store _ _ _ none | .atomic _ none | .arrive .. => some 0
  | .opa _ => some 1
  | .signal .. | .lineStore .. => some 2
  | _ => none

/-- The cores that a message is on its way to: one that waits for its partner goes to its own copy's core of its gang, and outside its gang to
both copies of a paired gang (R363). -/
def State.reach (s : State) (m : Msg) : List Nat :=
  match m.pair.bind fun t => (s.gang? t.gang).map fun g => (g, t.copyB) with
  | some (g, b) => if g.holds m.dst then [g.inCopy b m.dst] else m.dst :: ((s.secondCopy m).map (·.dst)).toList
  | none => [m.dst]

/-- A message keeps a later one of its class on its way (R142, R150, R288), whichever core a pair is still to name for it; a held one only those of its own row, since the
accesses of other rows are not held (R147). -/
def State.before (s : State) (n m : Msg) : Bool :=
  n.src == m.src && (s.reach n).contains m.dst && n.pay.cls == m.pay.cls
    && (!n.held || (n.org.core == m.org.core && n.org.rid == m.org.rid))

/-- A message may arrive when it is not held, no earlier one of its class goes the same way, and no earlier arrival from its source waits for
room (R74). -/
def State.deliverable (s : State) (k : Nat) : Bool :=
  match s.mesh[k]? with
  | none => false
  | some m => !m.held && m.pair.isNone && (m.pay.cls.isNone || !((s.mesh.take k).any fun n => s.before n m))
      && !(m.arrival && (s.mesh.take k).any fun n => n.src == m.src && n.dst == m.dst && s.portWaits n)

/-- Take a message out of the mesh. -/
def dropMsg (k : Nat) : Act := upd fun s => { s with mesh := s.mesh.eraseIdx k }

/-- A step on message `k` of the mesh, where it is of the right kind and may arrive; else nothing. -/
def onMsg (k : Nat) (f : Msg → Option Act) : Act :=
  .get fun s => match s.mesh[k]? with
    | none => .done
    | some m => if s.deliverable k then (match f m with | some a => a | none => .done) else .done

/-- A step of the machine outside the instructions of a block: a program of updates, never a stop. -/
def stepWith (a : Act) (s : State) : Host.Outcome State Fault Refusal := .next (a.run s)

/-- An injected error of the mesh at a message's data (R394): counted and recorded as one of the physical function, shared as every error of a flit is
(R396). It goes on with whether it is uncorrectable: then what arrives is poisoned (log 134). -/
def meshError (core addr : Nat) (k : Bool → Act) : Act :=
  .get fun s =>
    let inj := s.injects 9 core 0
    .all [.when (inj == some 1 || inj == some 2) (.all [useInjection, reportError 9 core 0 addr (inj == some 2) true true]),
          k (inj == some 2)]

/-- The bytes of a message with an uncorrectable error: the granules of one 64-bit codeword of its data, the first, are poisoned (R370,
R372; log 134). -/
def spoiled (ue : Bool) (bs : List PByte) : List PByte :=
  bs.map fun b => { b with poison := b.poison || (ue && bs.head?.any fun h => h.addr / 8 == b.addr / 8) }

/-- `BARRIER_ARRIVAL` (R281): an arrival or byte count of the mesh reaches its object; it is acknowledged when recorded. A poisoned one is not
performed (R375). -/
def execBarrierArrival (k : Nat) (s : State) : Host.Outcome State Fault Refusal :=
  stepWith (onMsg k fun m => match m.pay with
    | .arrive a n b e =>
      let done (c : Option Cond) : Act := acknowledge m.dst m.org c (b == 0 && m.org.rid != 512 && m.org.seq != 0)
      some (.all [dropMsg k, meshError m.dst a fun ue =>
        if ue then done (some (condOf m.org 0x0804 m.dst a)) else arriveAt m.org m.dst a n b e done])
    | _ => none) s

/-- `FLIP_BROADCAST` (R281): a core flips its children of the flipped object; a superstep gang's core takes its snapshot. -/
def execFlipBroadcast (k : Nat) (s : State) : Host.Outcome State Fault Refusal :=
  stepWith (onMsg k fun m => match m.pay with
    | .flip pc pa => some (.all [dropMsg k, .get fun s =>
        let kids := s.children m.dst pc pa
        .all [.each kids fun y => .all [
                modCore m.dst fun c => { c with cdone := c.cdone.erase y },
                putBits (Space.loc m.dst y) 4 5 5 0,
                barrierStep (s.flipDepth m.dst) true m.org m.dst y],
              .when (!kids.isEmpty) (.get fun s => .each (s.coreSt m.dst).armed fun y =>
                barrierStep (s.flipDepth m.dst) false m.org m.dst y),
              .when (bit (s.loc pc pa 1) 4) (snapshot m.dst)]])
    | _ => none) s

/-- A message of a row was dispatched after a superstep arrival whose step-start notice has not come (R366). -/
def State.stepHeld (s : State) (org : Origin) : Bool :=
  org.seq != 0 && (s.row? org.core org.rid).any fun r => r.arrived.any (· < org.seq)

/-- `STEP_START_NOTICE` (R366): once every core of the gang has reported its snapshot point, messages held for the notice go. -/
def execStepStartNotice (gang : Nat) (s : State) : Host.Outcome State Fault Refusal :=
  stepWith (.get fun s => match s.gang? gang with
    | some g => .when (g.superstep && g.allCores.all fun c => g.snapshots.contains c) (.all [
        modGang gang fun g => { g with snapshots := [] },
        upd fun s => { s with rows := s.rows.map fun r =>
          if r.2.gang == gang then (r.1, { r.2 with arrived := r.2.arrived.drop 1 }) else r },
        upd fun s => { s with mesh := s.mesh.map fun m =>
          if m.org.gang == gang && m.held && m.waits == 0 && !s.stepHeld m.org
          then { m with held := false, since := s.cycle } else m }])
    | none => .done) s

/-- Whether every access of a row dispatched below a number has been acknowledged (R283, R285, R147). -/
def State.ackedBelow (s : State) (core rid n : Nat) : Bool :=
  match s.row? core rid with
  | some r => r.pending.all fun q => n ≤ q
  | none => true

/-- What a held arrival waits for has come about: the accesses before it are acknowledged (R283, R285) and, where it leaves its core, the step has
started (R366). -/
def State.arrivalDue (s : State) (m : Msg) : Bool :=
  m.held && m.waits != 0 && s.ackedBelow m.org.core m.org.rid m.waits && (m.dst == m.src || !s.stepHeld m.org)

/-- A held arrival is sent, or applied on its own core, once the accesses before it are acknowledged. -/
def releaseArrival (k : Nat) : Act :=
  .get fun s => match s.mesh[k]? with
    | some m =>
      match m.pay with
      | .arrive a n b e =>
        .when (s.arrivalDue m)
          (if m.dst = m.src then
             .all [dropMsg k, arriveAt m.org m.dst a n b e fun c => acknowledge m.dst m.org c (m.org.seq != 0)]
           else upd fun s => { s with mesh := s.mesh.eraseIdx k ++ [{ m with held := false, since := s.cycle }] })
      | _ => .done
    | none => .done

/-- `DRAIN_ARRIVAL_SEND` (R285). -/
def execDrainArrivalSend (k : Nat) (s : State) : Host.Outcome State Fault Refusal := stepWith (releaseArrival k) s

/-- `SUPERSTEP_ARRIVAL_SEND` (R283). -/
def execSuperstepArrivalSend (k : Nat) (s : State) : Host.Outcome State Fault Refusal :=
  stepWith (.get fun _ => releaseArrival k) s

/-- `EVENT_SIGNAL` (R287): a signal reaches its line and is acknowledged when recorded (R143). A poisoned one is not performed (R375). -/
def execEventSignal (k : Nat) (s : State) : Host.Outcome State Fault Refusal :=
  stepWith (onMsg k fun m => match m.pay with
    | .signal c l op =>
      let done (x : Option Cond) : Act := acknowledge m.dst m.org x (m.org.rid != 512)
      some (.all [dropMsg k, meshError m.dst (0x01400000 + 64 * l) fun ue =>
        if ue then done (some (condOf m.org 0x0804 m.org.core (0x01400000 + 64 * l))) else signalLine m.org c l op done])
    | _ => none) s

/-- `EVENT_WINDOW_STORE` (R286). -/
def execEventWindowStore (k : Nat) (s : State) : Host.Outcome State Fault Refusal :=
  stepWith (onMsg k fun m => match m.pay with
    | .lineStore c off bs => some (.all [dropMsg k, meshError m.dst (0x01400000 + off) fun ue =>
        storeLine m.org c off (spoiled ue bs) fun x => acknowledge m.dst m.org x false])
    | _ => none) s

end Sys2Proof.Machine
end

