-- ==== Sys2Proof/Machine/Memory.lean ====
section
/-!
DEFINITION. Local loads and stores (R273 to R276): the ranges of the local map (R108), the address checks, the bytes a load
sees (R76, R195) and the effects a store leaves for the commit; the keys and partitions that the checks ask for.
-/

namespace Sys2Proof.Machine

/-! ### Functions, keys and partitions (R306, R307, R316) -/

/-- Word `w` of FUNCTAB entry `f` (R307), with TDIST in word 0. -/
def State.funcWord (s : State) (f w : Nat) : Nat :=
  s.bar 0 (0x14000 + 32 * f + 8 * w) 8 + if w = 0 then (s.func f).tdi % 4 * 2 ^ 61 else 0

/-- KEYOWN entry of a slot (R316): LIVE in bit 15, DEST in bit 14, OWNER in [9:0]. -/
def State.keyOwn (s : State) (slot : Nat) : Nat := s.bar 0 (0x11000 + 2 * slot) 2

/-- A slot is usable for a function while LIVE, not DEST and owned by it (R307, R316). -/
def State.keyUsable (s : State) (slot f : Nat) : Bool :=
  bit (s.keyOwn slot) 15 && !bit (s.keyOwn slot) 14 && s.keyOwn slot % 1024 == f

/-- Which key a slot holds. -/
def State.keyOf (s : State) (slot : Nat) : Nat := (Tab.find? s.keyGen slot).getD 0

/-- The context key slot of a function, and its key (R307). -/
def State.ckey (s : State) (f : Nat) : Nat := s.funcWord f 3 % 1024
def State.ckeyUsable (s : State) (f : Nat) : Bool := s.keyUsable (s.ckey f) f

/-- The key under which a core's operand SRAM path works: that of the function whose gang owns the core (R91). -/
def State.opsPathKey (s : State) (core : Nat) : Nat :=
  match s.gangOn? core with
  | some g => s.keyOf (s.ckey g.func)
  | none => 0

/-- A core lies in a partition of a function (R85, R306). -/
def State.ownsCore (s : State) (f core : Nat) : Bool :=
  (List.range 9).any fun k =>
    let e := s.bar 0 (0x11800 + 2 * ((256 + core) / 2 ^ k)) 2
    bit e 15 && e % 1024 == f

/-! ### The local map (R108) -/

/-- The ranges of the local address map. -/
inductive Range where
  | sram | opsram | acc | table | event | istore | remote
  deriving DecidableEq, Repr

/-- The range of a local address. -/
def rangeOf (a : Nat) : Option Range :=
  if a < 0x200000 then some .sram
  else if 0x01000000 ≤ a ∧ a < 0x01200000 then some .opsram
  else if 0x01200000 ≤ a ∧ a < 0x01240000 then some .acc
  else if 0x01300000 ≤ a ∧ a < 0x01302000 then some .table
  else if 0x01400000 ≤ a ∧ a < 0x01401000 then some .event
  else if 0x01800000 ≤ a ∧ a < 0x01840000 then some .istore
  else if 0x80000000 ≤ a ∧ a < 0xA0000000 then some .remote
  else none

/-- The one range that `w` bytes lie wholly in. -/
def rangeSpan (a w : Nat) : Option Range :=
  match rangeOf a with
  | some r => if rangeOf (a + w - 1) = some r then some r else none
  | none => none

/-- Load latency of a range beyond local SRAM's 8 cycles (R109). -/
def Range.extra : Range → Nat
  | .sram => 0 | .opsram => 16 | .acc => 16 | .table => 4 | .event => 32 | .istore => 4 | .remote => 0

/-- The carve of a gang (R115): bases of the queue area and the view pool. -/
def Gang.qbase (g : Gang) : Nat := 0x200000 - g.qarea
def Gang.vbase (g : Gang) : Nat := g.qbase - 64 - g.vpool

/-- Bytes of a gang's view pool. -/
def Gang.inPool (g : Gang) (a w : Nat) : Bool := g.vpool != 0 && a < g.vbase + g.vpool && g.vbase < a + w

/-- Bytes of the view pool of the gang on a core. -/
def State.inPool (s : State) (core a w : Nat) : Bool := (s.gangOn? core).any fun g => g.inPool a w

/-- Word 0 of the ownership entry of a tile (R257): STATE, TENANT, GANG, WMARK, GEN. -/
def ownKey (core t : Nat) : Nat := Space.loc core (0x01301000 + 32 * t)
def State.own (s : State) (core t : Nat) : Nat := s.le (ownKey core t) 8
def State.wmark (s : State) (core t : Nat) : Nat := bits (s.own core t) 23 16

/-- Whether a row may use the accumulator window of a tile (R259). -/
def State.mayUseTile (s : State) (core rid t : Nat) : Bool :=
  let o := s.own core t
  (bits o 63 62 == 1 && bits o 45 30 == s.gangId core rid) || (bits o 63 62 == 2 && bits o 55 46 == s.tenant core rid)

/-- One access of an instruction: its lane, effective address and width. -/
structure Access where
  lane : Nat
  ea : Nat
  w : Nat
  deriving DecidableEq, Repr

/-- The checks of one access, in the order of R274's pseudocode; R276 adds RemoteCore. -/
def State.accessCheck (s : State) (core rid : Nat) (isStore : Bool) (x : Access) : Option Nat :=
  if x.ea % min x.w 4 ≠ 0 ∨ (x.w = 8 ∧ x.ea % 8 ≠ 0) then some 0x0302
  else match rangeSpan x.ea x.w with
    | none => some 0x0301
    | some .sram => if s.inPool core x.ea x.w then some 0x0301 else none
    | some .opsram =>
      let lim := roundUp ((s.gangOn? core).elim 0 (·.opsram)) 0x4000
      if lim < x.ea - 0x01000000 + x.w then some 0x0303 else none
    | some .acc =>
      if s.mayUseTile core rid ((x.ea - 0x01200000) / 0x10000) && s.mayUseTile core rid ((x.ea + x.w - 1 - 0x01200000) / 0x10000) then none
      else some 0x0304
    | some .table => none
    | some .event => if x.w = 4 then none else some 0x0301
    | some .istore => none
    | some .remote =>
      if !isStore ∨ x.ea / 2 ^ 21 ≠ (x.ea + x.w - 1) / 2 ^ 21 then some 0x0301
      else if s.ownsCore (s.tenant core rid) (x.ea / 2 ^ 21 % 256) then none else some 0x0305

/-- Effective address A + offset + IMM × width modulo 2^32 (R274). -/
def effAddr (a : Nat) (off : Int) (imm : Int) (w : Nat) : Nat := wrap 32 ((a : Int) + off + imm * w)

/-- Lane accesses at an offset per lane, for the selected lanes whose offset is not null. -/
def laneAccs (a : Nat) (imm : Int) (w : Nat) (mask : List Bool) (off : Nat → Option Int) : List Access :=
  (List.range 32).filterMap fun i =>
    if mask.getD i false then (off i).map fun o => { lane := i, ea := effAddr a o imm w, w := w } else none

/-- The offset of lane `i` in LDGV and STSV (slot B's lane, unsigned) and in LDVS and STVS (i × stride). -/
def gatherOff (b : Token) (i : Nat) : Option Int := (laneAt b.lanes i).map fun x => (x.1.toNat : Int)
def strideOff (b : Token) (i : Nat) : Option Int := some ((i : Int) * signed 32 b.num)

/-- The forms of a load or store (R274): 128 bytes, one scalar, lanes gathered or scattered, lanes at a stride. -/
inductive MemForm where
  | block (imm : Int)
  | one (imm : Int) (t : LaneType)
  | lanes (imm : Int) (t : LaneType)
  | strided (imm : Int) (t : LaneType)
  | other
  deriving DecidableEq, Repr

/-- The form of an instruction. -/
def memForm : Instr → MemForm
  | .ldv _ imm _ _ => .block imm.toInt
  | .stv _ imm _ => .block imm.toInt
  | .lds _ imm _ _ t => .one imm.toInt t
  | .sts _ imm _ t => .one imm.toInt t
  | .ldgv _ imm _ _ t => .lanes imm.toInt t
  | .stsv _ imm _ t => .lanes imm.toInt t
  | .ldvs _ imm _ _ t => .strided imm.toInt t
  | .stvs _ imm _ t => .strided imm.toInt t
  | _ => .other

/-- The accesses that R274's pseudocode checks: one of 128 bytes for LDV and STV, one for LDS and STS, one for each lane
else. -/
def accesses (m : MemForm) (a b : Token) (mask : List Bool) : List Access :=
  match m with
  | .block imm => [{ lane := 0, ea := effAddr a.num 0 imm 128, w := 128 }]
  | .one imm t => [{ lane := 0, ea := effAddr a.num 0 imm (t.width / 8), w := t.width / 8 }]
  | .lanes imm t => laneAccs a.num imm (t.width / 8) mask (gatherOff b)
  | .strided imm t => laneAccs a.num imm (t.width / 8) mask (strideOff b)
  | .other => []

/-- The pieces an access moves: LDV and STV move a word for each selected lane. -/
def pieces (mask : List Bool) (xs : List Access) : List Access :=
  xs.flatMap fun x =>
    if x.w = 128 then
      (List.range 32).filterMap fun i => if mask.getD i false then some { lane := i, ea := x.ea + 4 * i, w := 4 } else none
    else [x]

/-! ### What a load sees -/

/-- Redirection of a declared tile to the row's view (R298). -/
def State.redirect (s : State) (core rid a : Nat) : Nat :=
  match s.row? core rid with
  | some r => match r.redir.find? fun d => d.base ≤ a && a < d.base + d.size with
    | some d => d.data + (a - d.base)
    | none => a
  | none => a

/-- Which bits of byte `n` of an event line a store to word 0x00 or 0x0C may change (R286). -/
def lineMask (n : Nat) : Nat :=
  match n with
  | 0 | 1 | 2 => 0xFF | 3 => 0xC1 | 0x0C => 0x3F | 0x0D => 0x03 | 0x0E => 0x0F | 0x0F => 0x80 | _ => 0

/-- The mark that a store leaves on the granule of an address: set by a poisoned byte, cleared by clean bytes that cover it whole, else as it
was (R372, R373). -/
def storedMark (core a : Nat) (bs : List PByte) (old : Bool) : Bool :=
  let g := granuleOf (Space.loc core a)
  let mine := bs.filter fun b => granuleOf (Space.loc core b.addr) == g
  if mine.any (·.poison) then true
  else if (List.range (granule g)).all fun i => mine.any fun b => Space.loc core b.addr == g + i then false
  else old

/-- What a store of an instance leaves at a local address of its core, over what stood there and its poison mark (R76, R195): in the
area of a row, in a queue descriptor and in an event line as the access codes of the fields give. A store that goes to its own core through the
remote window reaches it after the commit, and no load of the instance sees it (log 152). -/
def State.effectByte (s : State) (core a : Nat) (old : Byte × Bool) (e : Effect) : Byte × Bool :=
  let laid (bs : List PByte) : Byte × Bool :=
    (match bs.reverse.find? fun b => b.addr == a with
     | some b => s.leaves core a old.1 b.byte
     | none => old.1, storedMark core a bs old.2)
  match e with
  | .store bs => laid (s.acting core bs)
  | .window _ _ bs => laid bs
  | .lineStore off bs =>
    let n := a - 0x01400000
    if rangeOf a = some .event ∧ n / 64 = off / 64 ∧ (off % 64 = 0 ∨ off % 64 = 0x0C)
        ∧ s.le (Space.event (clusterOf core) (off / 64 * 64) + 4) 2 = 0 then
      match bs.find? fun b => b.addr == a with
      | some b => (b.byte &&& BitVec.ofNat 8 (lineMask (n % 64)), bs.any (·.poison))
      | none => if off % 64 = 0 ∧ [6, 7, 8, 9, 10, 11, 0x14, 0x15].contains (n % 64) then (0, old.2) else old
    else old
  | _ => old

/-- What the stores of an instance below an LSID leave at an address, in LSID order (R195). -/
def State.overlay (s : State) (core : Nat) (x : Inst) (lsid a : Nat) (old : Byte × Bool) : Byte × Bool :=
  x.effects.foldl (fun v e => if e.1 < lsid then s.effectByte core a v e.2.2 else v) old

/-- A byte of the operand SRAM as the path of a core deciphers it (R91): noise under another key, and open where nothing
has been written. -/
def State.opsByte (s : State) (core a : Nat) : Byte :=
  let k := Space.loc core a
  match Tab.find? s.opsKey k with
  | none => Config.opsContent k
  | some key => if key = s.opsPathKey core then s.byte k else Config.noise (some key) (s.opsPathKey core) k [s.byte k]

/-- The byte at a local address of a core, for a row of a gang: CAP of an ownership entry shows only to rows of its gang
(R257), event lines are those of the core's cluster. -/
def State.localByte (s : State) (core gang a : Nat) : Byte :=
  match rangeOf a with
  | some .opsram => s.opsByte core a
  | some .event => s.byte (Space.event (clusterOf core) (a - 0x01400000))
  | some .table =>
    if 0x01301000 ≤ a ∧ a < 0x01301080 ∧ a % 32 / 8 = 1 then
      let o := s.own core ((a - 0x01301000) / 32)
      if bits o 63 62 = 1 ∧ bits o 45 30 = gang then s.byte (Space.loc core a) else 0
    else s.byte (Space.loc core a)
  | _ => s.byte (Space.loc core a)

/-- The poison mark that a read of a local address delivers: none from an array without granules (R370), of an event line the line's. -/
def State.markAt (s : State) (core a : Nat) : Bool :=
  match rangeOf a with
  | some .event => s.poisoned (Space.event (clusterOf core) (a - 0x01400000))
  | some .table => false
  | some .istore => false
  | _ => s.poisoned (Space.loc core a)

/-- A byte that a row's load of an LSID sees, after redirection: a lower store's, else the memory's; tagged guard bytes
read as 0 (R377). -/
def State.loadByte (s : State) (core rid : Nat) (x : Inst) (lsid a : Nat) : Byte × Bool :=
  if s.guarded (Space.loc core a) then (0, false)
  else s.overlay core x lsid a (s.localByte core (s.gangId core rid) a, s.markAt core a)

/-- A byte of the block-state area of a row inside a REP block (R61), from the start of its first pass on: its value has no meaning a program may
use. -/
def State.blockState (s : State) (core a : Nat) : Bool :=
  a < 0x200000 && 0xC0 ≤ a % 0x1000 && a % 0x1000 < 0x100 &&
    (match s.row? core (ridOf a) with
     | some r => r.rep != 0 || (s.slot? core (ridOf a)).any fun x =>
         headerRep x.inst.header && (x.inst.pass != 0 || x.inst.start ≤ s.cycle) && match x.phase with | .closing _ => false | _ => true
     | none => false)

/-- Read the bytes at some local addresses for a load of an instance, and go on with them. Bytes of a block-state area are
free values (log 4). A touched guard granule is recorded at the row's next boundary (R377). -/
def loadBytes (core rid : Nat) (x : Inst) (lsid : Nat) (as : List Nat) (k : List (Byte × Bool) → Act) : Act :=
  .get fun s =>
    let bs := as.map (s.redirect core rid)
    let hit := bs.find? fun a => s.guarded (Space.loc core a)
    let org : Origin := { Origin.device core with rid := rid, lsid := lsid }
    .all [match hit with
          | some a => deliverCond core rid (condOf org 0x0805 core a)
          | none => .done,
          injectBytes core bs (s.tenant core rid),
          .get fun s => if bs.any (s.blockState core) then
            free fun v => .get fun s => k (bs.zipIdx.map fun p =>
              if s.blockState core p.1 then (BitVec.ofNat 8 (v / 256 ^ p.2), false) else s.loadByte core rid x lsid p.1)
          else k (bs.map (s.loadByte core rid x lsid))]

/-- The bytes of an access. -/
def Access.addrs (x : Access) : List Nat := (List.range x.w).map (x.ea + ·)

/-- Cut a list into pieces of the given lengths. -/
def cut {α : Type} : List Nat → List α → List (List α)
  | [], _ => []
  | n :: ns, l => l.take n :: cut ns (l.drop n)

/-- A loaded number extended to a width: sign-extended for I types (R274). -/
def extend (t : LaneType) (out : Nat) (bs : List (Byte × Bool)) : Nat :=
  let v := leNat (bs.map (·.1))
  if t.isSigned then wrap out (signed (8 * bs.length) v) else v

/-- The token of a load, from its pieces and their bytes; word loads extend nothing. -/
def loadToken (m : MemForm) (xs : List Access) (data : List (List (Byte × Bool))) : Token :=
  let vec (t : LaneType) : Token :=
    .vec ((List.range 32).map fun n =>
      match (xs.zip data).find? fun p => p.1.lane == n with
      | some (_, d) => some (BitVec.ofNat 32 (extend t 32 d), d.any (·.2))
      | none => none)
  match m with
  | .one _ t =>
    match data with
    | [d] => .ofNat (extend t 64 d) (d.any (·.2))
    | _ => .nullSca
  | .lanes _ t => vec t
  | .strided _ t => vec t
  | _ => vec .n32

/-- Whether the windows allow a row's load now (R111): its earlier commands and window stores accepted, its earlier window
stores to the address performed, and the watermark above every tile row it touches. -/
def State.windowReady (s : State) (core rid : Nat) (xs : List Access) : Bool :=
  let win := xs.filter fun x => rangeOf x.ea == some .opsram || rangeOf x.ea == some .acc
  win.isEmpty ||
    (!(s.mesh.any fun m => m.org.core == core && m.org.rid == rid && (match m.pay with | .opa _ => true | _ => false))
      && !((s.coreSt core).opa.any fun e => e.cmd.op == 0 && e.org.core == core && e.org.rid == rid
            && e.cmd.bytes.any fun b => win.any fun x => x.ea ≤ b.addr && b.addr < x.ea + x.w)
      && win.all fun x =>
          rangeOf x.ea != some .acc ||
            (let o := x.ea + x.w - 1 - 0x01200000
             o % 0x10000 / 512 < s.wmark core (o / 0x10000)))

/-- The latency of a load that makes some accesses (R68, R109, R275). -/
def loadLatency (i : Instr) (xs : List Access) : Nat :=
  (shape i).lat + xs.foldl (fun n x => max n ((rangeOf x.ea).elim 0 Range.extra)) 0

/-- Drop a wait of an instruction, or put one. -/
def clearWaitAt (core rid idx : Nat) : Act := modInst core rid fun x => { x with waits := x.waits.filter fun w => w.1 != idx }
def putWait (core rid idx : Nat) (w : Wait) : Act :=
  modInst core rid fun x => { x with waits := x.waits.filter (fun v => v.1 != idx) ++ [(idx, w)] }

/-- The lanes a held predicate selects. -/
def predMask (i : Instr) (pred : Option Token) : List Bool := maskOf (shape i).p (pred.getD .nullSca)

/-- Serve a load: read its bytes and deliver its token by the end of its latency (R195). -/
def serveLoad (core rid idx : Nat) (i : Instr) (a b : Token) (pred : Option Token) : Act :=
  .get fun s =>
    match s.slot? core rid with
    | none => .done
    | some sl =>
      let mask := predMask i pred
      let xs := pieces mask (accesses (memForm i) a b mask)
      .all [clearWaitAt core rid idx,
            loadBytes core rid sl.inst ((shape i).lsid.getD 0) (xs.flatMap Access.addrs) fun bs =>
              deliver core rid idx (shape i) (loadToken (memForm i) xs (cut (xs.map (·.w)) bs)) (s.cycle + loadLatency i xs - 1)]

/-- An operand of a load is null: it delivers null lanes, as R195 gives, and reads nothing (R274). -/
def nullLoad (i : Instr) (a b : Token) : Bool := a.allNull || ((shape i).b.isSome && b.allNull)

/-- Start a load whose lower LSIDs have all fired: at once, or once the windows allow it. -/
def startLoad (core rid idx : Nat) (i : Instr) (a b : Token) (pred : Option Token) : Act :=
  .get fun s =>
    let mask := predMask i pred
    if nullLoad i a b then
      .all [clearWaitAt core rid idx, deliver core rid idx (shape i) (nullResult (shape i) a b) (s.cycle + (shape i).lat - 1)]
    else if s.windowReady core rid (pieces mask (accesses (memForm i) a b mask)) then serveLoad core rid idx i a b pred
    else putWait core rid idx (.window i a b pred)

/-! ### Firing -/

/-- The operands of an LSID-carrying instruction: consumed poison raises 0x0804 (R374), a null operand makes it deliver
its null result and do nothing else (R273). -/
def withOperands (f : Fired) (consumed used : List Token) (k : Act) : Act :=
  if consumed.any Token.poisoned then failAt f.core f.rid f.idx 0x0804
  else if used.any Token.allNull then
    .get fun s => deliver f.core f.rid f.idx f.sh (nullResult f.sh f.a f.b) (s.cycle + f.sh.lat - 1)
  else k

/-- Raise the first check that fails, else go on. -/
def require (f : Fired) (checks : List (Bool × Nat)) (k : Act) : Act :=
  match checks.find? fun c => !c.1 with
  | some c => failAt f.core f.rid f.idx c.2
  | none => k

/-- The predicate token of a firing, where its instruction uses one. -/
def Fired.pred (f : Fired) : Option Token := if f.sh.p == .always then none else some f.p

/-- The lanes of a firing. -/
def Fired.mask (f : Fired) : List Bool := maskOf f.sh.p f.p

def Fired.lsid (f : Fired) : Nat := f.sh.lsid.getD 0

/-- Bits [63:32] of a scalar token. -/
def Token.high (t : Token) : Nat := t.num / 2 ^ 32

/-- The address checks of a load or store (R274): its scalar addresses are 32 bits, then each access in order. -/
def addressCheck (s : State) (f : Fired) (i : Instr) (isStore stride : Bool) (mask : List Bool) : Option Nat :=
  if f.a.high ≠ 0 ∨ (stride ∧ f.b.high ≠ 0) then some 0x0301
  else (accesses (memForm i) f.a f.b mask).findSome? (s.accessCheck f.core f.rid isStore)

/-- A load fires: its checks, then it is served once every lower LSID has fired (R195). -/
def fireLoad (i : Instr) (stride : Bool) (f : Fired) : Act :=
  withOperands f ([f.a] ++ if f.sh.b.isSome then [f.b] else []) []
    (.get fun s =>
      match if nullLoad i f.a f.b then none else addressCheck s f i false stride f.mask with
      | some code => failAt f.core f.rid f.idx code
      | none =>
        if f.slot.inst.lowerFired f.lsid then startLoad f.core f.rid f.idx i f.a f.b f.pred
        else putWait f.core f.rid f.idx (.load i f.a f.b f.pred))

/-! ### Stores -/

/-- Put an effect into LSID order (R71), after those of the same or a lower LSID. -/
def insertEffect (e : Nat × Nat × Effect) : List (Nat × Nat × Effect) → List (Nat × Nat × Effect)
  | [] => [e]
  | x :: xs => if x.1 ≤ e.1 then x :: insertEffect e xs else e :: x :: xs

/-- Hold an effect of a firing for its block's commit. -/
def addEffect (f : Fired) (e : Effect) : Act :=
  modInst f.core f.rid fun x => { x with effects := insertEffect (f.lsid, f.idx, e) x.effects }

/-- The data that a store writes in each piece. -/
def storeData (m : MemForm) (f : Fired) (x : Access) : Option (Nat × Bool) :=
  match m with
  | .one _ _ => match f.b with | .sca (some (v, p)) => some (v.toNat, p) | _ => none
  | .block _ => (laneAt f.b.lanes x.lane).map fun l => (l.1.toNat, l.2)
  | _ => (laneAt f.c.lanes x.lane).map fun l => (l.1.toNat, l.2)

/-- A byte of a control field (R52): poisoned data stored there is consumed (R374). -/
def State.inControl (s : State) (core a : Nat) : Bool :=
  a < 0x200000 && a % 0x1000 < 0x80 && (s.row? core (ridOf a)).isSome

/-- The effects of the bytes a store writes, by range: local SRAM and instruction store as one store, each other piece on
its own (R276, R143); a table takes no store (R275). `whole` gives the address and size of a store that is one access, whichever of its
lanes are written (R274). -/
def storeEffects (s : State) (core rid : Nat) (whole : Option (Nat × Nat)) (bss : List (List PByte)) : List Effect :=
  let kind (bs : List PByte) : Option Range := (bs.head?.map fun b => b.addr).bind rangeOf
  let locals := (bss.filter fun bs => kind bs == some .sram || kind bs == some .istore).flatten
  let others := bss.filter fun bs => !(kind bs == some .sram || kind bs == some .istore)
  let groups := if whole.isSome then [others.flatten] else others
  (if locals.isEmpty then [] else [.store (locals.map fun b => { b with addr := s.redirect core rid b.addr })])
    ++ groups.filterMap fun bs =>
      match bs with
      | [] => none
      | b :: _ =>
        match rangeOf b.addr with
        | some .remote =>
          let at' := whole.getD (b.addr, bs.length)
          some (.remote (b.addr / 2 ^ 21 % 256) (at'.1 % 2 ^ 21) at'.2 (bs.map fun x => { x with addr := x.addr % 2 ^ 21 }))
        | some .opsram => some (.window core b.addr bs)
        | some .acc => some (.window core b.addr bs)
        | some .event => some (.lineStore (b.addr - 0x01400000) bs)
        | _ => none

/-- A store fires: its checks, then its bytes wait for the commit (R274, R195). -/
def fireStore (i : Instr) (stride : Bool) (f : Fired) : Act :=
  let vec := f.sh.c.isSome
  withOperands f ([f.a] ++ if vec then [f.b] else []) ([f.a, f.b] ++ if vec then [f.c] else [])
    (.get fun s =>
      let data := if vec then f.c else f.b
      let mask := if !vec then f.mask else f.mask.zipIdx.map fun p => p.1 && (laneAt data.lanes p.2).isSome
      match addressCheck s f i true stride mask with
      | some code => failAt f.core f.rid f.idx code
      | none =>
        let xs := accesses (memForm i) f.a f.b mask
        let bss := (pieces mask xs).filterMap fun x =>
          (storeData (memForm i) f x).map fun d => pbytes x.ea x.w d.1 d.2
        if bss.flatten.any fun b => b.poison &&
            (s.inControl f.core b.addr || (rangeOf b.addr == some .remote && b.addr % 0x1000 < 0x80
              && (s.row? (b.addr / 2 ^ 21 % 256) (ridOf (b.addr % 2 ^ 21))).isSome)) then
          failAt f.core f.rid f.idx 0x0804
        else
          let whole := if vec then none else xs.head?.map fun x => (x.ea, x.w)
          .each (storeEffects s f.core f.rid whole bss) fun e => addEffect f e)

/-- `LDV` (R274). -/
def execLdv (lsid : BitVec 4) (imm : BitVec 6) (t0 : Target) (p : Pred) (s : State) : Host.Outcome State Fault Refusal :=
  fireWith (.ldv lsid imm t0 p) (fun f => fireLoad (.ldv lsid imm t0 p) false f) s

/-- `STV` (R274). -/
def execStv (lsid : BitVec 4) (imm : BitVec 14) (p : Pred) (s : State) : Host.Outcome State Fault Refusal :=
  fireWith (.stv lsid imm p) (fun f => fireStore (.stv lsid imm p) false f) s

/-- `LDS` (R274). -/
def execLds (lsid : BitVec 4) (imm : BitVec 6) (t0 : Target) (p : Pred) (t : LaneType) (s : State) :
    Host.Outcome State Fault Refusal :=
  fireWith (.lds lsid imm t0 p t) (fun f => fireLoad (.lds lsid imm t0 p t) false f) s

/-- `STS` (R274). -/
def execSts (lsid : BitVec 4) (imm : BitVec 14) (p : Pred) (t : LaneType) (s : State) : Host.Outcome State Fault Refusal :=
  fireWith (.sts lsid imm p t) (fun f => fireStore (.sts lsid imm p t) false f) s

/-- `LDGV` (R274). -/
def execLdgv (lsid : BitVec 4) (imm : BitVec 6) (t0 : Target) (p : Pred) (t : LaneType) (s : State) :
    Host.Outcome State Fault Refusal :=
  fireWith (.ldgv lsid imm t0 p t) (fun f => fireLoad (.ldgv lsid imm t0 p t) false f) s

/-- `STSV` (R274). -/
def execStsv (lsid : BitVec 4) (imm : BitVec 14) (p : Pred) (t : LaneType) (s : State) : Host.Outcome State Fault Refusal :=
  fireWith (.stsv lsid imm p t) (fun f => fireStore (.stsv lsid imm p t) false f) s

/-- `LDVS` (R274). -/
def execLdvs (lsid : BitVec 4) (imm : BitVec 6) (t0 : Target) (p : Pred) (t : LaneType) (s : State) :
    Host.Outcome State Fault Refusal :=
  fireWith (.ldvs lsid imm t0 p t) (fun f => fireLoad (.ldvs lsid imm t0 p t) true f) s

/-- `STVS` (R274). -/
def execStvs (lsid : BitVec 4) (imm : BitVec 14) (p : Pred) (t : LaneType) (s : State) : Host.Outcome State Fault Refusal :=
  fireWith (.stvs lsid imm p t) (fun f => fireStore (.stvs lsid imm p t) true f) s

/-- `WINDOW_LOAD_SERVE` (R111): a waiting load of a window is served once its conditions hold. -/
def execWindowLoadServe (core rid index : Nat) (s : State) : Host.Outcome State Fault Refusal :=
  stepWith (.get fun s =>
    match s.slot? core rid with
    | none => .done
    | some sl =>
      match sl.inst.waits.find? fun w => w.1 == index with
      | some (_, .window i a b pred) =>
        let mask := predMask i pred
        .when (s.windowReady core rid (pieces mask (accesses (memForm i) a b mask))) (serveLoad core rid index i a b pred)
      | _ => .done) s

end Sys2Proof.Machine
end

