-- ==== Sys2Proof/Machine/Atomic.lean ====
section
/-!
DEFINITION. Atomics (R277 to R279), the operations of stage queues (R289, R290) and the arrivals of a row at barrier objects
and event lines (R282 to R285, R288).
-/

namespace Sys2Proof.Machine

/-! ### Atomics -/

/-- The new value of a read-modify-write (R277), in the low bits; HSADD's BF16x2 adds each half (R292). Function 64 is the count of a histogram's
bin, which stops at its maximum (R265). -/
def atomicNew (op : AtomicOp) (old : Nat) : Nat :=
  let w := 8 * atomicWidth op.ty
  let b := op.b % 2 ^ w
  let num (x : Nat) : Int := if op.ty.isSigned then signed w x else (x : Int)
  if op.cas then (if old = b then op.c % 2 ^ w else old)
  else match op.fn with
    | 0 => (old + b) % 2 ^ w
    | 1 => old &&& b
    | 2 => old ||| b
    | 3 => old ^^^ b
    | 4 => if op.ty = .fp32 then (minMaxElem false .fp32 old b).1 else if num b < num old then b else old
    | 5 => if op.ty = .fp32 then (minMaxElem true .fp32 old b).1 else if num old < num b then b else old
    | 6 => b
    | 64 => min (old + b) 0xFFFFFFFF
    | _ => (elementwise op.ty [BitVec.ofNat 32 old, BitVec.ofNat 32 b] fun e =>
        laneRound op.ty .rne (sumVals .rne [laneValue op.ty (e.getD 0 0), laneValue op.ty (e.getD 1 0)]).1).1.toNat

/-- Whether the read-modify-write writes: ACAS does only where the bytes compare equal. -/
def atomicWrites (op : AtomicOp) (old : Nat) : Bool := !op.cas || old == op.b % 2 ^ (8 * atomicWidth op.ty)

/-- The old value as AOP and ACAS deliver it: sign-extended for I types (R277). -/
def atomicOld (op : AtomicOp) (old : Nat) : Nat :=
  if op.ty.isSigned then wrap 64 (signed (8 * atomicWidth op.ty) old) else old

/-- Why an operation at a bank unit is not performed: an armed barrier object that it would write over (R355) comes before a guard
granule that it touches (R377). -/
def State.refusal (s : State) (core : Nat) (org : Origin) (written touched : List Nat) : Option Cond :=
  match written.findSome? (s.armedAt core) with
  | some o => some (condOf org 0x0803 core o)
  | none => (touched.find? fun a => s.guarded (Space.loc core a)).map fun a => condOf org 0x0805 core a

/-- Perform a read-modify-write at a bank unit; it goes on with the old value and its poison mark, or with the condition that
refused it. An add of HSADD is refused with the rest of its beat, `beat` bytes from an address up (R355). -/
def performAtomic (core : Nat) (org : Origin) (op : AtomicOp) (beat : Option (Nat × Nat))
    (k : Option (Nat × Bool) → Option Cond → Act) : Act :=
  .get fun s =>
    let w := atomicWidth op.ty
    let as := (List.range w).map (op.addr + ·)
    match s.refusal core org (beat.elim as fun b => (List.range b.2).map (b.1 + ·)) as with
    | some c => k none (some c)
    | none => .all [injectBytes core as org.func, .get fun s =>
        let old := s.loc core op.addr w
        let p := as.any fun a => s.poisoned (Space.loc core a)
        if atomicWrites op old then
          performStore core org (pbytes op.addr w (atomicNew op old) (p || op.poison)) fun _ _ => k (some (old, p)) none
        else k (some (old, p)) none]

/-- Whether some bytes of core `dst` overlap a store of lower LSID in the instance, which runs on `core`: a store to its own core, or one
through the remote window, which reaches its own core too (R114, R278). -/
def Inst.overlapsStore (x : Inst) (core lsid dst : Nat) (as : List Nat) : Bool :=
  x.effects.any fun e => e.1 < lsid &&
    (match e.2.2 with
     | .store bs => dst == core && bs.any fun b => as.contains b.addr
     | .remote c _ _ bs => dst == c && bs.any fun b => as.contains b.addr
     | _ => false)

/-- Mark that the instance has performed an atomic or queue operation (R66). -/
def markAtomic (core rid : Nat) : Act := modInst core rid fun x => { x with atomicDone := true }

/-- The local atomic of an instance is performed, once every lower LSID has fired: AtomicOrder is judged here, when the
stores of lower LSID are known; then the old value is delivered 12 cycles later (R278). -/
def atomicNow (core rid idx : Nat) (sh : Shape) (op : AtomicOp) : Act :=
  .get fun s =>
    match s.slot? core rid with
    | none => .done
    | some sl =>
      let org : Origin := { Origin.device core with rid := rid, lsid := sh.lsid.getD 0, func := s.tenant core rid }
      .all [clearWaitAt core rid idx,
            if sl.inst.overlapsStore core (sh.lsid.getD 0) core ((List.range (atomicWidth op.ty)).map (op.addr + ·)) then
              failAt core rid idx 0x0308
            else performAtomic core org op none fun old c =>
              match old, c with
              | some (v, p), _ => .all [markAtomic core rid,
                  deliver core rid idx sh (.ofNat (atomicOld op v) p) (s.cycle + sh.lat - 1)]
              | none, some c => .all [deliverCond core rid c, deliver core rid idx sh .nullSca (s.cycle + sh.lat - 1)]
              | none, none => .done]

/-- AtomicOrder of a remote atomic, which its instance performs at commit: judged once the stores of lower LSID are known (R278). -/
def orderNow (core rid idx : Nat) (sh : Shape) (dst : Nat) (op : AtomicOp) : Act :=
  .get fun s =>
    match s.slot? core rid with
    | none => .done
    | some sl =>
      .all [clearWaitAt core rid idx,
            .when (sl.inst.overlapsStore core (sh.lsid.getD 0) dst ((List.range (atomicWidth op.ty)).map (op.addr + ·)))
              (failAt core rid idx 0x0308)]

/-- The checks of an atomic at fire, in the order of R278's pseudocode (AtomicOrder follows at its performance). -/
def State.atomicChecks (s : State) (core rid a w : Nat) : List (Bool × Nat) :=
  let r := rangeSpan (a % 2 ^ 32) w
  let la := a % 2 ^ 32
  [(a / 2 ^ 32 == 0, 0x0301), (la % w == 0, 0x0302),
   (r.isSome && (r != some .remote || la / 2 ^ 21 == (la + w - 1) / 2 ^ 21), 0x0301),
   (r == some .sram || r == some .remote, 0x0306),
   (r != some .remote || s.ownsCore (s.tenant core rid) (la / 2 ^ 21 % 256), 0x0305),
   (r != some .sram ||
     (!(s.rowsOf core).any (fun x => rowBase x < la + w && la < rowBase x + 0x1000) && !s.inPool core la w), 0x0307)]

/-- AOP and ACAS fire (R277 to R279): a remote one delivers null and waits for the commit; a local one is performed once
every lower LSID has fired. A task's view takes the place of a declared tile (R298). -/
def fireAtomic (cas : Bool) (fn : Nat) (t : LaneType) (f : Fired) : Act :=
  withOperands f [f.a] ([f.a, f.b] ++ if cas then [f.c] else [])
    (.get fun s =>
      require f (s.atomicChecks f.core f.rid f.a.num (atomicWidth t))
        (let op : AtomicOp := { cas := cas, fn := fn, ty := t, addr := f.a.num, b := f.b.num, c := f.c.num,
                                poison := f.b.poisoned || (cas && f.c.poisoned) }
         if rangeOf f.a.num = some .remote then
           let dst := f.a.num / 2 ^ 21 % 256
           let op := { op with addr := f.a.num % 2 ^ 21 }
           .all [addEffect f (.remoteAtomic dst op), deliver f.core f.rid f.idx f.sh .nullSca (s.cycle + f.sh.lat - 1),
                 if f.slot.inst.lowerFired f.lsid then orderNow f.core f.rid f.idx f.sh dst op
                 else putWait f.core f.rid f.idx (.order dst op)]
         else
           let op := { op with addr := s.redirect f.core f.rid f.a.num }
           if f.slot.inst.lowerFired f.lsid then atomicNow f.core f.rid f.idx f.sh op
           else putWait f.core f.rid f.idx (.atomic op)))

/-- `AOP` (R277). -/
def execAop (lsid : BitVec 4) (fn : BitVec 6) (t0 : Target) (p : Pred) (t : LaneType) (s : State) :
    Host.Outcome State Fault Refusal :=
  fireWith (.aop lsid fn t0 p t) (fun f => fireAtomic false fn.toNat t f) s

/-- `ACAS` (R277). -/
def execAcas (lsid : BitVec 4) (t0 : Target) (p : Pred) (t : LaneType) (s : State) : Host.Outcome State Fault Refusal :=
  fireWith (.acas lsid t0 p t) (fun f => fireAtomic true 0 t f) s

/-! ### Stage queues -/

/-- A queue of the gang on the row's core (R209). -/
def State.isGangQueue (s : State) (core a : Nat) : Bool := (s.gangOn? core).any fun g => g.queues.any fun q => q.base == a

/-- Fields of a queue descriptor (R289). -/
def State.qRing (s : State) (core d : Nat) : Nat := s.loc core d 4
def State.qDepth (s : State) (core d : Nat) : Nat := s.loc core (d + 4) 2
def State.qHead (s : State) (core d : Nat) : Nat := s.loc core (d + 8) 4
def State.qTail (s : State) (core d : Nat) : Nat := s.loc core (d + 0x0C) 4
def State.qStop (s : State) (core d : Nat) : Nat := s.loc core (d + 0x10) 4

/-- Occupancy: TAIL − HEAD modulo 2^32. -/
def State.qCount (s : State) (core d : Nat) : Nat := (s.qTail core d + 2 ^ 32 - s.qHead core d) % 2 ^ 32

/-- Rows that wait for room or data of a queue and now have it wake (R209). -/
def wakeQueue (core d : Nat) : Act :=
  .get fun s => .all [.when (s.qCount core d < s.qDepth core d) (wakeWaiters core 3 d fun _ => true),
    .when (s.qCount core d != 0) (wakeWaiters core 4 d fun _ => true)]

/-- The ring slot of an entry. -/
def State.qSlot (s : State) (core d n : Nat) : Nat := s.qRing core d + 128 * (n % max (s.qDepth core d) 1)

/-- Entry `n` is a stop token: n ≥ STOPAT, entry numbers taken modulo 2^32 (R289). -/
def State.isStop (s : State) (core d n : Nat) : Bool :=
  s.qStop core d != 0xFFFFFFFF && (n + 2 ^ 32 - s.qStop core d) % 2 ^ 32 < 2 ^ 31

/-- The bytes a queue operation writes (R290, R355). -/
def State.queueWrites (s : State) (core d fn : Nat) (data : Token) : List Nat :=
  let word (a : Nat) : List Nat := (List.range 4).map (a + ·)
  match fn with
  | 0 => word (d + 0x0C) ++ (List.range 32).flatMap fun i =>
      if (laneAt data.lanes i).isSome then word (s.qSlot core d (s.qTail core d) + 4 * i) else []
  | 1 => word (d + 8)
  | _ => word (d + 0x0C) ++ if s.qStop core d = 0xFFFFFFFF then word (d + 0x10) else []

/-- The bytes a queue operation touches: the descriptor, and the ring slot where it moves data. -/
def State.queueBytes (s : State) (core d fn : Nat) : List Nat :=
  let slot := match fn with
    | 0 => [s.qSlot core d (s.qTail core d)]
    | 1 => if s.isStop core d (s.qHead core d) then [] else [s.qSlot core d (s.qHead core d)]
    | _ => []
  (List.range 32).map (d + ·) ++ slot.flatMap fun a => (List.range 128).map (a + ·)

/-- An operation that waits for the same as one of `fn`, an entry or room, on the same queue, has reached the bank unit before it. -/
def State.queueBehind (s : State) (core d fn ticket : Nat) : Bool :=
  s.slots.any fun x => x.core == core && x.inst.waits.any fun w => match w.2 with
    | .queue g a _ _ (some t) => a == d && (g == 1) == (fn == 1) && decide (t < ticket)
    | _ => false

/-- A queue operation writes a word of its descriptor, which no store reaches (R289). -/
def queueWord (core a v : Nat) : Act :=
  putLoc core a 4 v

/-- A queue operation at its bank unit (R290): fn 0 QPUSH, 1 QPOP, 2 QSTOP. It waits while it cannot be performed; a data
push behind a stop token fails at once (QueueStopped); a refused one delivers null (R355, R375, R377). `ticket` is its place among the
operations that have reached the bank units: none is performed before an earlier one that waits for the same on its queue. -/
def queueNow (core rid idx : Nat) (sh : Shape) (fn d : Nat) (data : Token) (pred : Option Token) (ticket : Nat) : Act :=
  .get fun s =>
    let org : Origin := { Origin.device core with rid := rid, lsid := sh.lsid.getD 0 }
    let null := nullResult { sh with res := if fn = 1 then .vector else .scalar } .nullSca .nullSca
    let due := s.cycle + sh.lat - 1
    let fail (c : Cond) : Act := .all [clearWaitAt core rid idx, deliverCond core rid c, deliver core rid idx sh null due]
    let tail := s.qTail core d
    let head := s.qHead core d
    if let some p := s.firstPoisoned core ((List.range 8).map (d + 4 * ·)) then fail (condOf org 0x0804 core p)
    else if fn = 0 ∧ s.qStop core d ≠ 0xFFFFFFFF then fail (condOf org 0x0409 core d)
    else if (if fn = 1 then s.qCount core d = 0 else s.qDepth core d ≤ s.qCount core d) ∨ s.queueBehind core d fn ticket then
      putWait core rid idx (.queue fn d data pred (some ticket))
    else match s.refusal core org (s.queueWrites core d fn data) (s.queueBytes core d fn) with
      | some c => fail c
      | none =>
        .all [clearWaitAt core rid idx, markAtomic core rid,
          match fn with
          | 0 => .all [writeLocal core ((List.range 32).flatMap fun i =>
                    match laneAt data.lanes i with
                    | some (w, p) => pbytes (s.qSlot core d tail + 4 * i) 4 w.toNat p
                    | none => []),
                  queueWord core (d + 0x0C) (tail + 1),
                  deliver core rid idx sh (.ofNat tail) due]
          | 1 =>
            let mask := maskOf sh.p (pred.getD .nullSca)
            let stop := s.isStop core d head
            .all [.when (!stop) (injectBytes core ((List.range 128).map (s.qSlot core d head + ·)) (s.tenant core rid)), .get fun s =>
            let lanes : List Lane := (List.range 32).map fun i =>
              if stop || !mask.getD i false then none
              else
                let a := s.qSlot core d head + 4 * i
                some (BitVec.ofNat 32 (s.loc core a 4), s.poisoned (Space.loc core a))
            .all [queueWord core (d + 8) (head + 1), deliver core rid idx sh (.vec lanes) due]]
          | _ => .all [.when (s.qStop core d == 0xFFFFFFFF) (queueWord core (d + 0x10) tail),
                  queueWord core (d + 0x0C) (tail + 1),
                  deliver core rid idx sh (.ofNat tail) due],
          wakeQueue core d]

/-- A queue operation reaches its bank unit, and takes its place there. -/
def queueArrive (core rid idx : Nat) (sh : Shape) (fn d : Nat) (data : Token) (pred : Option Token) : Act :=
  .get fun s => .all [modCore core fun c => { c with tickets := c.tickets + 1 }, injectBytes core ((List.range 32).map (d + ·)) (s.tenant core rid),
    queueNow core rid idx sh fn d data pred (s.coreSt core).tickets]

/-- A queue operation fires and goes to its bank unit, not before every lower LSID has fired (R290, R278). -/
def fireQueue (fn : Nat) (f : Fired) : Act :=
  withOperands f [f.a] ([f.a] ++ if fn = 0 then [f.b] else [])
    (.get fun s =>
      require f [(s.isGangQueue f.core f.a.num, 0x0408)]
        (if f.slot.inst.lowerFired f.lsid then queueArrive f.core f.rid f.idx f.sh fn f.a.num f.b f.pred
         else putWait f.core f.rid f.idx (.queue fn f.a.num f.b f.pred none)))

/-- `QPUSH` (R290). -/
def execQpush (lsid : BitVec 4) (t0 : Target) (p : Pred) (s : State) : Host.Outcome State Fault Refusal :=
  fireWith (.qpush lsid t0 p) (fun f => fireQueue 0 f) s

/-- `QPOP` (R290). -/
def execQpop (lsid : BitVec 4) (t0 : Target) (p : Pred) (s : State) : Host.Outcome State Fault Refusal :=
  fireWith (.qpop lsid t0 p) (fun f => fireQueue 1 f) s

/-- `QSTOP` (R290). -/
def execQstop (lsid : BitVec 4) (t0 : Target) (p : Pred) (s : State) : Host.Outcome State Fault Refusal :=
  fireWith (.qstop lsid t0 p) (fun f => fireQueue 2 f) s

/-- `QUEUE_OP_PERFORM` (R290): a queue operation that waits at its bank unit is tried. -/
def execQueueOpPerform (core rid index : Nat) (s : State) : Host.Outcome State Fault Refusal :=
  stepWith (.get fun s =>
    match s.slot? core rid with
    | none => .done
    | some sl =>
      let sh := sl.inst.shapeAt index
      match sl.inst.waits.find? fun w => w.1 == index with
      | some (_, .queue fn d data pred ticket) =>
        .when (sl.phase == .running && sl.inst.lowerFired (sh.lsid.getD 0)) (match ticket with
          | some t => queueNow core rid index sh fn d data pred t
          | none => queueArrive core rid index sh fn d data pred)
      | _ => .done) s

/-! ### Barrier instructions -/

/-- A local object address (R209, R282). -/
def localObject (a : Nat) : Bool := a / 2 ^ 21 == 0 && a % 32 == 0

/-- An object address of BARV, BEXP and DRAIN: local or in the remote window (R283). -/
def objectAddress (a : Nat) : Bool :=
  (a / 2 ^ 32 == 0 && a % 32 == 0) && (rangeOf a == some .sram || rangeOf a == some .remote)

/-- The core of an object address, and its local address there. -/
def objectAt (core a : Nat) : Nat × Nat := if rangeOf a = some .remote then (a / 2 ^ 21 % 256, a % 2 ^ 21) else (core, a % 2 ^ 21)

/-- `BINIT` (R282). -/
def execBinit (lsid : BitVec 4) (sstep : Bool) (p : Pred) (s : State) : Host.Outcome State Fault Refusal :=
  fireWith (.binit lsid sstep p) (fun f => withOperands f [f.a, f.b, f.c] [f.a, f.b, f.c] (.get fun s =>
    require f [(localObject f.a.num, 0x0401), (f.b.high == 0 && 1 ≤ f.b.num, 0x0402),
               (f.c.high == 0 && bits f.c.num 23 21 == 0 && f.c.num % 32 == 0, 0x0402),
               (!sstep || ((s.gangOn? f.core).any (·.superstep) && f.c.num == 0), 0x0402)]
      (addEffect f (.binit f.a.num f.b.num (f.c.num / 2 ^ 24) (f.c.num % 2 ^ 21) sstep)))) s

/-- BARV, BEXP and DRAIN: an arrival held for the commit (R283, R285). A remote object must lie on a core of the tenant:
RemoteCore is the check of remote accesses (R276). -/
def fireArrive (f : Fired) (arrivals expect : Nat) (isDrain : Bool) : Act :=
  .get fun s =>
    let o := objectAt f.core f.a.num
    require f [(objectAddress f.a.num, 0x0401),
               (o.1 == f.core || s.ownsCore (s.tenant f.core f.rid) o.1, 0x0305)]
      (addEffect f (.arrive o.1 o.2 arrivals expect (o.1 != f.core) isDrain))

/-- `BARV` (R283). -/
def execBarv (lsid : BitVec 4) (p : Pred) (s : State) : Host.Outcome State Fault Refusal :=
  fireWith (.barv lsid p) (fun f => withOperands f [f.a] [f.a] (fireArrive f 1 0 false)) s

/-- `BEXP` (R283). -/
def execBexp (lsid : BitVec 4) (arr : Bool) (p : Pred) (s : State) : Host.Outcome State Fault Refusal :=
  fireWith (.bexp lsid arr p) (fun f => withOperands f [f.a, f.b] [f.a, f.b]
    (require f [(objectAddress f.a.num, 0x0401), (f.b.high == 0, 0x0402)]
      (fireArrive f arr.toNat f.b.num false))) s

/-- `DRAIN` (R285). -/
def execDrain (lsid : BitVec 4) (p : Pred) (s : State) : Host.Outcome State Fault Refusal :=
  fireWith (.drain lsid p) (fun f => withOperands f [f.a] [f.a] (fireArrive f 1 0 true)) s

/-- BPH reads ARMED × 8 + CDONE × 2 + PHASE of a local object, ordered as a local load (R284, R195); a null A delivers null. -/
def phaseNow (core rid idx : Nat) (sh : Shape) (a : Token) : Act :=
  .get fun s =>
    match s.slot? core rid with
    | none => .done
    | some sl =>
      .all [clearWaitAt core rid idx,
            if a.allNull then deliver core rid idx sh .nullSca (s.cycle + sh.lat - 1)
            else loadBytes core rid sl.inst (sh.lsid.getD 0) [a.num] fun bs =>
              let w := leNat (bs.map (·.1))
              deliver core rid idx sh (.ofNat ((bit w 3).toNat * 8 + (bit w 5).toNat * 2 + w % 2) (bs.any (·.2)))
                (s.cycle + sh.lat - 1)]

/-- `BPH` (R284). -/
def execBph (lsid : BitVec 4) (t0 : Target) (p : Pred) (s : State) : Host.Outcome State Fault Refusal :=
  fireWith (.bph lsid t0 p) (fun f => withOperands f [f.a] []
    (require f [(f.a.allNull || localObject f.a.num, 0x0401)]
      (if f.slot.inst.lowerFired f.lsid then phaseNow f.core f.rid f.idx f.sh f.a
       else putWait f.core f.rid f.idx (.load (.bph lsid t0 p) f.a f.b f.pred)))) s

/-- `EVSIG` (R288). Whether the line is the context's is judged at the line (R286). -/
def execEvsig (lsid : BitVec 4) (evop : BitVec 2) (p : Pred) (s : State) : Host.Outcome State Fault Refusal :=
  fireWith (.evsig lsid evop p) (fun f => withOperands f [f.a] [f.a]
    (require f [(f.a.num / 2 ^ 13 == 0 && bits f.a.num 7 6 == 0, 0x0404)]
      (addEffect f (.signal (if bit f.a.num 12 then bits f.a.num 11 8 else clusterOf f.core) (f.a.num % 64) evop.toNat)))) s

end Sys2Proof.Machine
end

