-- ==== Sys2Proof/Machine/Engine.lean ====
section
/-!
DEFINITION. What a row sends to the engines of a core (R121, R122, R252 to R254, R291 to R293): the Halyard instructions, the
matrix and plate commands and TIDSET. Each checks its operands at fire and waits for the commit. And what follows once a store of
an engine, or one held for a row, is performed (R74, R124, R261).
-/

namespace Sys2Proof.Machine

/-! ### Halyard entries -/

/-- The far form of an address in a core (R126): bit 63, core in [55:48], local address below. -/
def coreForm (core a : Nat) : Nat := 2 ^ 63 + core * 2 ^ 48 + a

/-- Lowest queue entry that is free (R122). -/
def State.freeEntry (s : State) (core : Nat) : Option Nat :=
  (List.range 64).find? fun e => (Tab.find? (s.coreSt core).halyard e).isNone

/-- A Halyard instruction, or a plate transfer to or from memory, needs a free queue entry to be eligible (R122, R269); SYSC
needs a free record (R302). -/
inductive Need where
  | nothing | entry | record
  deriving DecidableEq, Repr

/-- What an instruction needs to be eligible beside its operands. -/
def Instr.need : Instr → Need
  | .hget .. => .entry
  | .hsnd .. => .entry
  | .hgath .. => .entry
  | .hscat .. => .entry
  | .hsadd .. => .entry
  | .hpfch .. => .entry
  | .plspl _ _ _ mem _ _ => if mem then .entry else .nothing
  | .plfil _ _ _ mem _ => if mem then .entry else .nothing
  | .sysc .. => .record
  | _ => .nothing

/-- Take back a firing: the instruction is not eligible after all. -/
def unfire (f : Fired) : Act :=
  modInst f.core f.rid fun x => { x with fired := x.fired.filter fun g => g.1 != f.idx, busy := f.slot.inst.busy }

/-- An empty entry of an origin. -/
def HEntry.blank (org : Origin) : HEntry :=
  { kind := 0, acq := false, rel := false, dl := false, rsv := true, unstarted := false, ascope := 0, rscope := 0, etype := 0, len := 0, src := 0,
    dst := 0, rbar := 0, sbar := 0, prog := 0, aux := 0, org := org, opa := none, order := 0, inFlight := false,
    chunk := false, deadline := 0, counted := [], conds := [], late := [], used := [], stopped := false, await := false, pairEntry := none }

/-- Set an entry of a core's queue. -/
def setEntry (core e : Nat) (h : HEntry) : Act := modCore core fun c => { c with halyard := Tab.set c.halyard e h }

/-- Change an entry. -/
def modEntry (core e : Nat) (g : HEntry → HEntry) : Act :=
  modCore core fun c => { c with halyard := c.halyard.map fun p => if p.1 = e then (p.1, g p.2) else p }

/-- An entry is dispatched: it takes its place in the order of the core's queue (R122). -/
def queueEntry (core e : Nat) (g : HEntry → HEntry) : Act :=
  .all [modEntry core e g, .get fun s => modEntry core e fun h => { h with order := (s.coreSt core).hOrder },
        modCore core fun c => { c with hOrder := c.hOrder + 1 }]

/-- Free an entry. -/
def freeEntry (core e : Nat) : Act := modCore core fun c => { c with halyard := Tab.erase c.halyard e }

/-! ### What follows a performed access (R74, R124, R261, R344) -/

def State.acc? (s : State) (id : Nat) : Option Acc := s.accs.find? fun a => a.id == id

def modAcc (id : Nat) (f : Acc → Acc) : Act :=
  upd fun s => { s with accs := s.accs.map fun a => if a.id == id then f a else a }

/-- A condition of which a chunk raises at most one (R355, R375, R377, R380, R381, R408); every request that fails on a link or through a lease
raises its own (R383, R384, R386, R388). -/
def Cond.single (c : Cond) : Bool :=
  [0x0801, 0x0802, 0x0804, 0x0805, 0x0807].contains c.code || (c.code == 0x0803 && c.ainfo % 32 == 0)

/-- An entry of which the chunk in flight meets some conditions. A further translation fault, refused page or peer-window access of the chunk only
sets AMORE (R380, R381, R408). -/
def HEntry.meetConds (h : HEntry) (conds : List Cond) : HEntry :=
  let again (c : Cond) : Bool := c.code == 0x0801 || c.code == 0x0802 || c.code == 0x0807
  let new := conds.filterMap fun c =>
    if !c.single || !h.conds.contains c.code then some { c with lsid := h.org.lsid, isExit := false }
    else if again c && !h.late.any (fun d => d.more && d.code == c.code) then
      some { c with lsid := h.org.lsid, isExit := false, more := true }
    else none
  { h with conds := h.conds ++ (conds.filter (·.single)).map (·.code), late := h.late ++ new }

/-- Conditions met by a chunk wait for the command's acknowledgement (R344), and for that of the other copy's command which the chunk serves too
(R363). Poison consumed in a superstep gang is counted and starts a rollback (R367, R395). -/
def noteConds (core entry : Nat) (conds : List Cond) : Act :=
  .get fun s =>
  let h? := Tab.find? (s.coreSt core).halyard entry
  let org := h?.elim (Origin.device core) (·.org)
  if let some p := (conds.find? (·.code == 0x0804)).filter fun _ => s.rollsBack org.gang then
    .all [poisonConsumed core org.func p.ainfo, startRollback org.gang]
  else .all [
    modEntry core entry fun h => h.meetConds conds,
    match (h?.filter (!·.await)).bind (·.pairEntry) with
    | some b => modEntry b.1 b.2 fun h => h.meetConds conds
    | none => .done]

/-- An access of a chunk is done: `n` bytes performed at its receiving core, and the conditions it raised. -/
def finishAcc (id n : Nat) (conds : List Cond) : Act :=
  .get fun s => match s.acc? id with
    | none => .done
    | some a =>
      .all [upd fun s => { s with accs := s.accs.filter fun x => x.id != id },
            modEntry a.core a.entry fun h =>
              { h with counted := Tab.set h.counted a.target ((Tab.find? h.counted a.target).getD 0 + n) },
            noteConds a.core a.entry conds]

/-- A part of an access that was held for a row is performed; the access is done with the last of them. -/
def accPart (id n : Nat) (conds : List Cond) : Act :=
  .get fun s => match s.acc? id with
    | none => .done
    | some a =>
      if a.left ≤ 1 then finishAcc id (a.got + n) conds
      else .all [modAcc id fun x => { x with left := x.left - 1, got := x.got + n }, noteConds a.core a.entry conds]

/-- An access has reached its receiving core: done where none of its parts is held there. -/
def placeAcc (id n parts : Nat) (conds : List Cond) : Act :=
  if parts = 0 then finishAcc id n conds
  else .get fun s => .all [modAcc id fun x => { x with state := .placing, left := parts, got := n },
    match s.acc? id with
    | some a => noteConds a.core a.entry conds
    | none => .done]

/-- The barrier object of a drain, spill or fill: cap field B<60:40> (R253). -/
def OpaCmd.bar (c : OpaCmd) : Nat := if c.op = 0x72 ∨ c.op = 0x76 ∨ c.op = 0x77 then bits c.b 60 40 else 0

/-- One entry of a core's matrix and plate queue. -/
def State.opaEntry (s : State) (core seq : Nat) : Option OpaEntry := (s.coreSt core).opa.find? fun e => e.seq == seq

def modOpa (core seq : Nat) (f : OpaEntry → OpaEntry) : Act :=
  modCore core fun c => { c with opa := c.opa.map fun e => if e.seq == seq then f e else e }

/-- Count bytes into the barrier object of a command at its own core; the condition goes to the issuing row (R261). -/
def countBar (core : Nat) (org : Origin) (bar n : Nat) : Act :=
  .when (bar != 0 && n != 0) (arriveAt org core bar 0 n 0 fun c => acknowledge core org c false)

/-- Parts of a group of a drain: `more` come to be outstanding, `n` bytes have been performed. The group's bytes are counted once
none is outstanding (R261). -/
def drainPart (core seq g : Nat) (more : Int) (n : Nat) : Act :=
  .all [modOpa core seq fun e => { e with parts := e.parts.map fun p =>
          if p.1 == g then (p.1, ((p.2.1 : Int) + more).toNat, p.2.2 + n) else p },
        .get fun s => match s.opaEntry core seq with
          | none => .done
          | some e => match e.parts.find? fun p => p.1 == g with
            | some (_, 0, b) => .all [modOpa core seq fun e => { e with parts := e.parts.filter fun p => p.1 != g },
                                      countBar core e.org e.cmd.bar b]
            | _ => .done]

/-- A condition of a group of a drain goes to the issuing row, once for each code (R355, R375). -/
def tellDrain (core seq g : Nat) (org : Origin) (c : Cond) : Act :=
  .get fun s => .when (!(s.opaEntry core seq).any fun e => e.told.contains (g, c.code))
    (.all [modOpa core seq fun e => { e with told := e.told ++ [(g, c.code)] }, acknowledge core org (some c) false])

/-- Counts of a drain's histogram are performed, each as one read-modify-write of its bin (R265); one refused tells the row (R355, R377). -/
def performBins (core : Nat) (org : Origin) (seq g : Nat) (ops : List AtomicOp) : Act :=
  .each ops fun op => performAtomic core org op none fun _ c => c.elim .done (tellDrain core seq g org)

/-- What follows once `n` bytes of a store, or an atomic, are performed at a core, with the condition that it raised. -/
def finish (core : Nat) (org : Origin) (fin : Fin) (n : Nat) (c : Option Cond) : Act :=
  match fin with
  | .remote => acknowledge core org c false
  | .own => match c with
    | some c => deliverCond core org.rid c
    | none => .done
  | .acc id => accPart id n c.toList
  | .drain seq g => .all [c.elim .done (tellDrain core seq g org), drainPart core seq g (-1) n]
  | .call rbar => .all [acknowledge core org c false,
      .when (rbar != 0) (arriveAt org core (rbar % 2 ^ 21) 1 0 0 fun c => acknowledge core org c false)]

/-! ### Engine writes (R124, R261, R355, R377) -/

/-- The armed barrier object that the 64-byte beat of a byte overlaps, in a destination from `lo` up to `hi` (R355). -/
def State.beatArmed (s : State) (core lo hi a : Nat) : Option Nat :=
  [a / 64 * 64, a / 64 * 64 + 32].find? fun o => o < hi && lo < o + 32 && (s.coreSt core).armed.contains o

/-- Bytes that an engine of the machine writes into a core's local SRAM or instruction store, of a destination from `lo` up to `hi`: beats
over an armed object are refused, tagged guard bytes are left out, and the bytes in an open or claimed row are held for it. It goes on with
the number of bytes performed, the number of parts held and the conditions raised. -/
def engineStore (core : Nat) (org : Origin) (lo hi : Nat) (bs : List PByte) (fin : Fin) (k : Nat → Nat → List Cond → Act) : Act :=
  .get fun s =>
    let armed (b : PByte) : Option Nat := s.beatArmed core lo hi b.addr
    placeStore core noRow org (bs.filter fun b => (armed b).isNone) fin fun parts n c =>
      k n parts (((bs.findSome? armed).map fun o => condOf org 0x0803 core o).toList ++ c.toList)

/-- Who dispatches an effect of a firing. -/
def Fired.origin (s : State) (f : Fired) : Origin :=
  { core := f.core, rid := f.rid, lsid := f.lsid, isExit := false, gang := s.gangId f.core f.rid,
    func := s.tenant f.core f.rid, seq := 0 }

/-- Reserve an entry at fire and hold its dispatch for the commit (R122). -/
def reserveEntry (f : Fired) (h : Origin → HEntry) : Act :=
  .get fun s =>
    match s.freeEntry f.core with
    | none => unfire f
    | some e => .all [setEntry f.core e (h (f.origin s)), addEffect f (.halyard e)]

/-! ### Halyard instructions -/

/-- The six kinds of R126. -/
inductive HKind where
  | hget | hsnd | hgath | hscat | hsadd | hpfch
  deriving DecidableEq, Repr

/-- The KIND code (R126). -/
def HKind.code : HKind → Nat
  | .hget => 1 | .hsnd => 2 | .hgath => 3 | .hscat => 4 | .hsadd => 5 | .hpfch => 6

/-- What a Halyard instruction's slots name (R291). -/
structure HForm where
  kind : HKind
  local' : Nat       -- A<31:0>
  ahi : Nat          -- A<63:32>
  far : Nat          -- B
  cnt : Nat          -- C<31:0>
  chi : Nat          -- C<63:32>
  size : Nat         -- element size of HGATH and HSCAT; 1 otherwise
  deriving DecidableEq, Repr

/-- Elements are listed (R291). -/
def HForm.listed (h : HForm) : Bool := h.kind == .hgath || h.kind == .hscat

/-- Command length in bytes (R126). -/
def HForm.len (h : HForm) : Nat := if h.listed then h.cnt * h.size else h.cnt

/-- Index list, receiving-end and sending-end barriers of a command (R291). -/
def HForm.aux (h : HForm) : Nat :=
  match h.kind with | .hgath => h.ahi | .hscat => h.chi | _ => 0
def HForm.rbar (h : HForm) : Nat :=
  match h.kind with | .hget | .hsnd | .hgath | .hsadd => h.chi | _ => 0
def HForm.sbar (h : HForm) : Nat :=
  match h.kind with | .hsnd | .hscat | .hsadd => h.ahi | _ => 0

/-- The far operand names a virtual address, a core or a group (R291). -/
def farVa (b : Nat) : Bool := !bit b 63
def farGroup (b : Nat) : Bool := bit b 63 && bit b 62
def farCore (b : Nat) : Nat := bits b 55 48

/-- Members of a gang-local group: the cores that its group table entry names (R89), in the copy of the gang that a core lies
in. -/
def State.groupCores (s : State) (g : Gang) (core grp : Nat) : List Nat :=
  let m := (Tab.find? s.groupTab (256 * g.func + g.gbase + grp)).getD 0
  let n := g.groups * g.cores
  let base := if g.paired && g.firstB ≤ core && core < g.firstB + n then g.firstB else g.first
  ((List.range n).filter fun c => bit m c).map (base + ·)

/-- Target cores of a far operand. -/
def State.farCores (s : State) (core b : Nat) : List Nat :=
  if farVa b then []
  else if farGroup b then
    match s.gangOn? core with
    | some g => if farCore b < g.groups then s.groupCores g core (farCore b) else []
    | none => []
  else [farCore b]

/-- A local extent lies in local SRAM, or in the instruction store where the command allows it, and clear of the view
pool (R121, R293). -/
def State.extentOk (s : State) (core a n : Nat) (istore : Bool) : Bool :=
  (a + n ≤ 0x200000 || (istore && 0x01800000 ≤ a && a + n ≤ 0x01840000)) && !s.inPool core a n

/-- A barrier form is 0, or names a 32-aligned local SRAM address (R293). -/
def barrierForm (x : Nat) : Bool := x % 2 ^ 24 < 2 ^ 21 && x % 32 == 0

/-- The checks of a Halyard instruction, in the order of R293. -/
def State.halyardChecks (s : State) (core rid : Nat) (h : HForm) : List (Bool × Nat) :=
  let zero := match h.kind with
    | .hget => h.ahi == 0
    | .hpfch => h.local' == 0 && h.ahi == 0 && h.chi == 0
    | _ => true
  let extents := (if h.kind == .hpfch then true else s.extentOk core h.local' h.len (h.kind == .hget))
    && (!h.listed || s.extentOk core h.aux (4 * h.cnt) false)
    && (farVa h.far || s.extentOk core (h.far % 2 ^ 21) h.len false)
  let al := if h.listed then h.size else if h.kind == .hsadd then 4 else 1
  let aligned := h.aux % 4 == 0 && h.local' % al == 0 && h.far % 2 ^ 48 % al == 0
  let lenOk := 1 ≤ h.cnt && h.cnt ≤ (if h.listed then 2 ^ 24 else 2 ^ 31) && (h.kind != .hsadd || h.cnt % 4 == 0)
  let form := match h.kind with
    | .hsnd => true
    | .hsadd => !farVa h.far && !farGroup h.far
    | _ => farVa h.far
  let cores := s.farCores core h.far
  let target := form && (farVa h.far || (!cores.isEmpty && cores.all fun c =>
    s.ownsCore (s.tenant core rid) c && (s.gangOn? core).any fun g => g.allCores.contains c))
  [(zero && extents && aligned, 0x0601), (lenOk, 0x0602), (target, 0x0603),
   (barrierForm h.sbar && barrierForm h.rbar, 0x0507),
   (!(h.kind == .hget || h.kind == .hgath) || h.rbar == 0 || h.rbar / 2 ^ 24 == core, 0x0507)]

/-- The queue entry of a command (R126); a group multicast has DL forced to 1 (R130). -/
def HForm.entry (h : HForm) (core : Nat) (dl rel acq : Bool) (rsc asc : Nat) (t : LaneType) (org : Origin) : HEntry :=
  { HEntry.blank org with
      kind := h.kind.code, acq := acq, rel := rel, dl := dl || farGroup h.far, ascope := asc, rscope := rsc,
      etype := t.code, len := h.len, rbar := h.rbar, sbar := h.sbar, aux := h.aux,
      src := (match h.kind with | .hget | .hgath | .hpfch => h.far | _ => coreForm core h.local'),
      dst := (match h.kind with | .hget | .hgath => coreForm core h.local' | .hpfch => 0 | _ => h.far) }

/-- A Halyard instruction fires (R122, R291 to R293). -/
def fireHalyard (kind : HKind) (dl rel acq : Bool) (rsc asc : Nat) (t : LaneType) (f : Fired) : Act :=
  withOperands f [f.a, f.b, f.c] [f.a, f.b, f.c] (.get fun s =>
    let h : HForm := { kind := kind, local' := f.a.num % 2 ^ 32, ahi := f.a.high, far := f.b.num, cnt := f.c.num % 2 ^ 32,
                       chi := f.c.high, size := (if t.isScalar then 8 else t.width / 8) }
    require f (s.halyardChecks f.core f.rid h) (reserveEntry f (h.entry f.core dl rel acq rsc asc t)))

/-- `HGET` (R291). -/
def execHget (lsid : BitVec 4) (dl : Bool) (rsc asc : BitVec 3) (rel acq : Bool) (p : Pred) (s : State) :
    Host.Outcome State Fault Refusal :=
  fireWith (.hget lsid dl rsc asc rel acq p) (fun f => fireHalyard .hget dl rel acq rsc.toNat asc.toNat .i32 f) s

/-- `HSND` (R291). -/
def execHsnd (lsid : BitVec 4) (dl : Bool) (rsc asc : BitVec 3) (rel acq : Bool) (p : Pred) (s : State) :
    Host.Outcome State Fault Refusal :=
  fireWith (.hsnd lsid dl rsc asc rel acq p) (fun f => fireHalyard .hsnd dl rel acq rsc.toNat asc.toNat .i32 f) s

/-- `HGATH` (R291). -/
def execHgath (lsid : BitVec 4) (dl : Bool) (rsc asc : BitVec 3) (rel acq : Bool) (p : Pred) (t : LaneType) (s : State) :
    Host.Outcome State Fault Refusal :=
  fireWith (.hgath lsid dl rsc asc rel acq p t) (fun f => fireHalyard .hgath dl rel acq rsc.toNat asc.toNat t f) s

/-- `HSCAT` (R291). -/
def execHscat (lsid : BitVec 4) (dl : Bool) (rsc asc : BitVec 3) (rel acq : Bool) (p : Pred) (t : LaneType) (s : State) :
    Host.Outcome State Fault Refusal :=
  fireWith (.hscat lsid dl rsc asc rel acq p t) (fun f => fireHalyard .hscat dl rel acq rsc.toNat asc.toNat t f) s

/-- `HSADD` (R292). -/
def execHsadd (lsid : BitVec 4) (dl : Bool) (rsc asc : BitVec 3) (rel acq : Bool) (p : Pred) (t : LaneType) (s : State) :
    Host.Outcome State Fault Refusal :=
  fireWith (.hsadd lsid dl rsc asc rel acq p t) (fun f => fireHalyard .hsadd dl rel acq rsc.toNat asc.toNat t f) s

/-- `HPFCH` (R291). -/
def execHpfch (lsid : BitVec 4) (dl : Bool) (p : Pred) (s : State) : Host.Outcome State Fault Refusal :=
  fireWith (.hpfch lsid dl p) (fun f => fireHalyard .hpfch dl false false 0 0 .i32 f) s

/-! ### Matrix and plate commands (R253, R254) -/

/-- The command of an OP with its operands; images and tenant are filled at dispatch (R254). -/
def OpaCmd.mk' (op : Nat) (fill : Bool) (imm : Nat) (f : Fired) : OpaCmd :=
  { op := op, fill := fill, imm := imm, cap := f.a.num, b := f.b.num, c := f.c.num, images := [], bytes := [],
    poisoned := false, tenant := 0, entry := none }

/-- A command fires: poison in B or C is consumed, in the capability of slot A too (R374); it waits for the commit. -/
def fireOpa (op : Nat) (fill : Bool) (imm : Nat) (f : Fired) : Act :=
  let c := if f.sh.c.isSome then [f.c] else []
  withOperands f ([f.a, f.b] ++ c) ([f.a, f.b] ++ c) (addEffect f (.opa (OpaCmd.mk' op fill imm f)))

/-- A spill or fill fires; to or from memory it must name its own core and reserves a queue entry (R269). -/
def fireSpill (fill : Bool) (scope : Nat) (sync mem lossy : Bool) (f : Fired) : Act :=
  withOperands f [f.a, f.b, f.c] [f.a, f.b, f.c]
    (let imm := lossy.toNat + 2 * mem.toNat + 4 * sync.toNat + 8 * scope
     let cmd := OpaCmd.mk' 0x77 fill imm f
     if mem then
       require f [(bits f.a.num 63 56 == f.core, 0x0508)] (.get fun s =>
         let bar := bits f.b.num 60 40
         let form := if bar = 0 then 0 else f.core * 2 ^ 24 + bar
         match s.freeEntry f.core with
         | none => unfire f
         | some e =>
           let h := { HEntry.blank (f.origin s) with
             kind := if fill then 1 else 2, acq := fill && sync, rel := !fill && sync, ascope := scope, rscope := scope,
             len := if fill then 65600 else if lossy then 32832 else 65600,
             src := if fill then f.c.num % 2 ^ 48 else coreForm f.core 0,
             dst := if fill then coreForm f.core 0 else f.c.num % 2 ^ 48,
             rbar := if fill then form else 0,
             sbar := if fill then 0 else form }
           .all [setEntry f.core e h, addEffect f (.opa { cmd with entry := some e })])
     else addEffect f (.opa cmd))

/-- `MXMUL` (R262). -/
def execMxmul (lsid : BitVec 4) (ovr : Bool) (p : Pred) (s : State) : Host.Outcome State Fault Refusal :=
  fireWith (.mxmul lsid ovr p) (fun f => fireOpa 0x71 false ovr.toNat f) s

/-- `MXDRN` (R264). -/
def execMxdrn (lsid : BitVec 4) (sat : Bool) (p : Pred) (s : State) : Host.Outcome State Fault Refusal :=
  fireWith (.mxdrn lsid sat p) (fun f => fireOpa 0x72 false sat.toNat f) s

/-- `MXZ` (R263). -/
def execMxz (lsid : BitVec 4) (p : Pred) (s : State) : Host.Outcome State Fault Refusal :=
  fireWith (.mxz lsid p) (fun f => fireOpa 0x73 false 0 f) s

/-- `PLPIN` (R266). -/
def execPlpin (lsid : BitVec 4) (p : Pred) (s : State) : Host.Outcome State Fault Refusal :=
  fireWith (.plpin lsid p) (fun f => fireOpa 0x74 false 0 f) s

/-- `PLUNP` (R266). -/
def execPlunp (lsid : BitVec 4) (p : Pred) (s : State) : Host.Outcome State Fault Refusal :=
  fireWith (.plunp lsid p) (fun f => fireOpa 0x74 true 0 f) s

/-- `PLDLT` (R267). -/
def execPldlt (lsid : BitVec 4) (p : Pred) (s : State) : Host.Outcome State Fault Refusal :=
  fireWith (.pldlt lsid p) (fun f => fireOpa 0x75 false 0 f) s

/-- `PLRD` (R268). -/
def execPlrd (lsid : BitVec 4) (p : Pred) (s : State) : Host.Outcome State Fault Refusal :=
  fireWith (.plrd lsid p) (fun f => fireOpa 0x76 false 0 f) s

/-- `PLSPL` (R269). -/
def execPlspl (lsid : BitVec 4) (scope : BitVec 3) (sync mem lossy : Bool) (p : Pred) (s : State) :
    Host.Outcome State Fault Refusal :=
  fireWith (.plspl lsid scope sync mem lossy p) (fun f => fireSpill false scope.toNat sync mem lossy f) s

/-- `PLFIL` (R269). -/
def execPlfil (lsid : BitVec 4) (scope : BitVec 3) (sync mem : Bool) (p : Pred) (s : State) :
    Host.Outcome State Fault Refusal :=
  fireWith (.plfil lsid scope sync mem p) (fun f => fireSpill true scope.toNat sync mem false f) s

/-! ### TIDSET (R250 to R252) -/

/-- Word `w` of an identifier image. -/
def tidWord (img : List Byte) (w : Nat) : Nat := leNat ((img.drop (4 * w)).take 4)

/-- An identifier image is well formed (R251). -/
def tidWellFormed (img : List Byte) : Bool :=
  let w0 := tidWord img 0
  let dim (d : Nat) : Nat := match d with
    | 0 => tidWord img 2 % 2 ^ 16 | 1 => tidWord img 2 / 2 ^ 16 | 2 => tidWord img 3 % 2 ^ 16 | _ => tidWord img 3 / 2 ^ 16
  w0 % 16 ≤ 12 && bits w0 7 6 != 3 && bits w0 9 8 != 3 && tidWord img 1 < 2 ^ 21 && tidWord img 7 < 2 ^ 21
    && ((List.range (bits w0 5 4 + 1)).all fun d => 1 ≤ dim d)
    && (bits w0 9 8 != 1 || tidWord img 1 % 4 == 0)
    && (!bit w0 10 || (bits w0 7 6 == 0 && tidWord img 7 % 128 == 0))

/-- The read of a TIDSET is under way from the cycle in which every lower LSID has fired; 8 cycles later the image is read
(R252). -/
def tidsetNow (core rid idx : Nat) (sh : Shape) (entry addr : Nat) (due : Option Nat) : Act :=
  .get fun s =>
    match due with
    | none => putWait core rid idx (.tidset entry addr (some (s.cycle + 8)))
    | some d =>
      if s.cycle < d then .done
      else match s.slot? core rid with
        | none => .done
        | some sl =>
          .all [clearWaitAt core rid idx,
                loadBytes core rid sl.inst (sh.lsid.getD 0) ((List.range 32).map (addr + ·)) fun bs =>
                  if bs.any (·.2) then failAt core rid idx 0x0804
                  else if !tidWellFormed (bs.map (·.1)) then failAt core rid idx 0x0502
                  else modInst core rid fun x =>
                    { x with effects := insertEffect (sh.lsid.getD 0, idx, .tidset entry (bs.map (·.1))) x.effects }]

/-- `TIDSET` (R252). -/
def execTidset (lsid : BitVec 4) (entry : BitVec 6) (p : Pred) (s : State) : Host.Outcome State Fault Refusal :=
  fireWith (.tidset lsid entry p) (fun f => withOperands f [f.a] [f.a]
    (require f [(localObject f.a.num, 0x0501)] (.get fun s => putWait f.core f.rid f.idx
      (.tidset entry.toNat f.a.num (if f.slot.inst.lowerFired f.lsid then some (s.cycle + 8) else none))))) s

end Sys2Proof.Machine
end

