-- ==== Sys2Proof/Machine/System.lean ====
section
/-!
DEFINITION. Views, FORK and the search for idle rows (R216, R295 to R298), FENCE (R294), control registers (R301) and system
requests (R302).
-/

namespace Sys2Proof.Machine

/-! ### The view pool -/

/-- The lowest free place of a size in the view pool of the gang on a core, at an alignment (log 14: the spec gives the
pool, not where a piece of it is taken). -/
def State.poolPlace (s : State) (core size align : Nat) : Option Nat :=
  match s.gangOn? core with
  | none => none
  | some g =>
    let used := (s.coreSt core).pool
    let starts := roundUp g.vbase align :: used.map fun p => roundUp (p.1 + p.2) align
    let ok (a : Nat) : Bool := g.vbase ≤ a && a + size ≤ g.vbase + g.vpool && used.all fun p => p.1 + p.2 ≤ a || a + size ≤ p.1
    (starts.filter ok).foldl (fun m a => match m with | none => some a | some b => some (min a b)) none

/-- Take, and give back, a piece of the pool. -/
def poolTake (core a size : Nat) : Act := modCore core fun c => { c with pool := c.pool ++ [(a, size)] }
def poolFree (core a : Nat) : Act := modCore core fun c => { c with pool := c.pool.filter fun p => p.1 != a }

/-! ### The view table (R295) -/

/-- Key of a view table entry. -/
def viewKey (core v : Nat) : Nat := Space.loc core (0x01300800 + 32 * v)

/-- VSTATE, SLOT and DROW of an entry. -/
def State.vstate (s : State) (core v : Nat) : Nat := bits (s.le (viewKey core v + 8) 8) 63 62
def State.vslot (s : State) (core v : Nat) : Nat := bits (s.le (viewKey core v + 8) 8) 10 9
def State.vrow (s : State) (core v : Nat) : Nat := bits (s.le (viewKey core v + 8) 8) 8 0

/-- BASE, SIZE, TYPE and OP of an entry. -/
def State.vbaseOf (s : State) (core v : Nat) : Nat := s.le (viewKey core v) 4
def State.vsizeOf (s : State) (core v : Nat) : Nat := s.le (viewKey core v + 4) 2
def State.vtypeOf (s : State) (core v : Nat) : Nat := s.le (viewKey core v + 6) 1
def State.vopOf (s : State) (core v : Nat) : Nat := s.le (viewKey core v + 7) 1

/-- The entries that a row has declared, in ascending declaration slot. -/
def State.viewsOf (s : State) (core rid : Nat) : List Nat :=
  (List.range 4).filterMap fun k => (List.range 32).find? fun v =>
    s.vstate core v != 0 && s.vrow core v == rid && s.vslot core v == k

/-- The entry of a declaration slot. -/
def State.slotEntry (s : State) (core rid k : Nat) : Option Nat :=
  (s.viewsOf core rid).find? fun v => s.vslot core v == k

/-- Bytes of a data area: SIZE rounded up to 64 (R298). -/
def areaSize (size : Nat) : Nat := roundUp size 64

/-- Sizes of the tiles that a row will have declared once some declarations of its block are committed, 0 for an empty slot (R296). -/
def State.viewSizes (s : State) (core rid : Nat) (late : List (Nat × List Byte × Option Nat)) : List Nat :=
  (List.range 4).map fun k => match late.reverse.find? fun d => d.1 == k with
    | some d => leNat ((d.2.1.drop 4).take 2)
    | none => (s.slotEntry core rid k).elim 0 (s.vsizeOf core)

/-- Bytes of a view instance of a parent's declared tiles: a 64-byte header and their data areas (R298). -/
def State.instanceSize (s : State) (core rid : Nat) (late : List (Nat × List Byte × Option Nat)) : Nat :=
  64 + ((s.viewSizes core rid late).map areaSize).sum

/-- A TYPE that an OP lists (R300). -/
def viewTypeOk (op ty : Nat) : Bool :=
  match op with
  | 0 => ty == 6 || ty == 0
  | 1 | 2 | 3 => ty == 6 || ty == 0 || ty == 1
  | 4 | 5 => ty == 6
  | _ => false

/-- A view image is well formed (R295, R300). -/
def viewImageOk (img : List Byte) : Bool :=
  let base := leNat (img.take 4)
  let size := leNat ((img.drop 4).take 2)
  let op := leNat ((img.drop 7).take 1)
  base % 64 == 0 && base + size ≤ 0x200000 && size ≤ 16384 && size % (if 4 ≤ op then 8 else 4) == 0
    && viewTypeOk op (leNat ((img.drop 6).take 1)) && (img.drop 8).all (· == 0)

/-- Two byte ranges meet. -/
def overlap (a n b m : Nat) : Bool := n != 0 && m != 0 && a < b + m && b < a + n

/-- Declarations of an instance that wait for its commit: slot, image, reserved entry. -/
def Inst.declared (x : Inst) : List (Nat × List Byte × Option Nat) :=
  x.effects.filterMap fun e => match e.2.2 with | .vdecl k img v => some (k, img, v) | _ => none

/-- The LSID below which the declarations of a block come before a fork: FORK acts at its own, FORKR at the boundary (R71, R215). -/
def Inst.forkLsid (x : Inst) (idx : Nat) : Nat := ((x.shapeAt idx).lsid).getD 16

/-- The declarations of a block that come before its fork. -/
def Inst.declaredBefore (x : Inst) (idx : Nat) : List (Nat × List Byte × Option Nat) :=
  { x with effects := x.effects.filter fun e => e.1 < x.forkLsid idx }.declared

/-- Every declaration that comes before a fork of the block has been made: a search claims rows from then on (log 131). -/
def Inst.viewsKnown (x : Inst) (idx : Nat) : Bool :=
  (List.range x.ins.length).all fun i => match (x.ins[i]?).bind insOf with
    | some (.vdecl l ..) => x.forkLsid idx ≤ l.toNat || ((x.fired.any fun f => f.1 == i) && !x.waits.any fun w => w.1 == i)
    | _ => true

/-- A slot holds a declared tile once the declarations of a block below an LSID are committed. -/
def State.slotHeld (s : State) (core rid k : Nat) (x : Inst) (lsid : Nat) : Bool :=
  match (Inst.declared { x with effects := x.effects.filter fun e => e.1 < lsid }).reverse.find? fun d => d.1 == k with
  | some d => decide (leNat ((d.2.1.drop 4).take 2) ≠ 0)
  | none => (s.slotEntry core rid k).isSome

/-- A slot's view is in use at a declaration of an LSID (R296): a task holds one of it, or a FORK of lower LSID of the same block hands it to its
task (R71, R297). -/
def State.slotBusy (s : State) (core rid k : Nat) (x : Inst) (lsid : Nat) : Bool :=
  (s.slotEntry core rid k).any (fun v => s.vstate core v == 2)
    || x.effects.any fun e => e.1 < lsid && (match e.2.2 with | .fork .. => s.slotHeld core rid k x e.1 | _ => false)

/-- VDECL, once its image is read as a local load (R296): the checks ViewDecl and ViewTable, then the reservation of an
entry where the slot holds none. -/
def vdeclNow (core rid idx : Nat) (sh : Shape) (k addr : Nat) : Act :=
  .get fun s =>
    match s.slot? core rid with
    | none => .done
    | some sl =>
      let x := sl.inst
      .all [clearWaitAt core rid idx,
            loadBytes core rid x (sh.lsid.getD 0) ((List.range 32).map (addr + ·)) fun bs =>
              let img := bs.map (·.1)
              let base := leNat (img.take 4)
              let size := leNat ((img.drop 4).take 2)
              let later := x.declared
              let others := ((List.range 4).filter (· != k)).filterMap fun j =>
                match later.reverse.find? fun d => d.1 == j with
                | some d => some (leNat (d.2.1.take 4), leNat ((d.2.1.drop 4).take 2))
                | none => (s.slotEntry core rid j).map fun v => (s.vbaseOf core v, s.vsizeOf core v)
              let held := s.slotHeld core rid k x 16
              let busy := s.slotBusy core rid k x (sh.lsid.getD 0)
              let ok := viewImageOk img && (s.gangOn? core).all (fun g => !(size != 0 && g.inPool base size))
                && !(others.any fun o => overlap base size o.1 o.2) && !busy
              let spare := (List.range 32).find? fun v => s.vstate core v == 0 && !((s.coreSt core).viewRsv.contains v)
              if bs.any (·.2) then failAt core rid idx 0x0804
              else if !ok then failAt core rid idx 0x0604
              else if !held && spare.isNone then failAt core rid idx 0x0605
              else
                let v := if held then none else spare
                .all [match v with
                      | some v => modCore core fun c => { c with viewRsv := insertSorted v c.viewRsv }
                      | none => .done,
                      modInst core rid fun x =>
                        { x with effects := insertEffect (sh.lsid.getD 0, idx, .vdecl k img v) x.effects }]]

/-- `VDECL` (R296). -/
def execVdecl (lsid : BitVec 4) (slot : BitVec 2) (p : Pred) (s : State) : Host.Outcome State Fault Refusal :=
  fireWith (.vdecl lsid slot p) (fun f => withOperands f [f.a] [f.a]
    (require f [(localObject f.a.num, 0x0604)]
      (if f.slot.inst.lowerFired f.lsid then vdeclNow f.core f.rid f.idx f.sh slot.toNat f.a.num
       else putWait f.core f.rid f.idx (.load (.vdecl lsid slot p) f.a f.b f.pred)))) s

/-! ### The search of R216 -/

/-- The cores of the copy of a gang that a core belongs to (R87). -/
def Gang.copyCores (g : Gang) (core : Nat) : List Nat :=
  let n := g.groups * g.cores
  (List.range n).map ((if g.paired && g.firstB ≤ core && core < g.firstB + n then g.firstB else g.first) + ·)

/-- The rows a search visits, in its order (R216). -/
def State.searchOrder (s : State) (core rid : Nat) : List (Nat × Nat) :=
  match s.gangOn? core with
  | none => []
  | some g =>
    let rows (c : Nat) : List (Nat × Nat) := (s.rowsOf c).map fun r => (c, r)
    let bank := rid / 64
    let here := rows core
    let others := (g.copyCores core).filter (· != core)
    (here.filter fun r => r.2 / 64 == bank) ++ (here.filter fun r => r.2 / 64 != bank)
      ++ (others.filter fun c => clusterOf c == clusterOf core).flatMap rows
      ++ (others.filter fun c => clusterOf c != clusterOf core && dieOf c == dieOf core).flatMap rows
      ++ (others.filter fun c => dieOf c != dieOf core).flatMap rows

/-- Something held for a closing row sets RUNREQ: the row will be ready (R62, R74). -/
def Held.runs : Held → Bool
  | .request run stop _ => run && !stop
  | .store _ bs _ => bs.any fun b => b.addr < 0x200000 && b.addr % 0x1000 == 1 && bit b.byte.toNat 0 && !bit b.byte.toNat 1
  | _ => false

/-- A row a search may claim: idle (it may still be closing, where nothing that arrived before makes it ready), of the gang after its
dispatch, not claimed, and its core's pool has room for a view instance of a size (R216, R297). -/
def State.claimable (s : State) (pcore prid size : Nat) (r : Nat × Nat) : Bool :=
  match s.row? r.1 r.2 with
  | none => false
  | some x => s.code r.1 r.2 == 0 && x.claim.isNone && !x.held.any Held.runs && r != (pcore, prid)
      && ((s.gang? x.gang).any (·.dispatched)) && (s.poolPlace r.1 size 64).isSome

/-- The next row of a search: the first claimable one behind those it has found. -/
def State.nextIdle (s : State) (core rid size : Nat) (found : List (Nat × Nat)) : Option (Nat × Nat) :=
  let order := s.searchOrder core rid
  let rest := match found.getLast? with
    | some r => (order.dropWhile (· != r)).drop 1
    | none => order
  rest.find? (s.claimable core rid size)

/-- Claim a row for the search of a parent: its view instance is taken from its core's pool (R216, R298). -/
def claimRow (pcore prid size : Nat) (r : Nat × Nat) : Act :=
  .get fun s =>
    match s.poolPlace r.1 size 64 with
    | none => .done
    | some a => .all [poolTake r.1 a size, modRow r.1 r.2 fun x => { x with claim := some (pcore, prid), early := x.held.length, view := a }]

/-- The search of an instruction of a row. -/
def Inst.search? (x : Inst) (idx : Nat) : Option (Nat × List (Nat × Nat) × Nat) :=
  match x.waits.find? fun w => w.1 == idx with
  | some (_, .search want found since) => some (want, found, since)
  | _ => none

/-- Bytes of the view instances that a search of a row reserves: those of the tiles declared by then, its own block's too (R296, R298). -/
def State.searchSize (s : State) (core rid idx : Nat) : Nat :=
  s.instanceSize core rid ((s.slot? core rid).elim [] fun l => l.inst.declaredBefore idx)

/-- One claim of a search, and the rows found with it. -/
def searchStep (core rid idx want since : Nat) (found : List (Nat × Nat)) (k : List (Nat × Nat) → Act) : Act :=
  .get fun s =>
    let size := s.searchSize core rid idx
    if want ≤ found.length then k found
    else match s.nextIdle core rid size found with
      | none => k found
      | some r => .all [claimRow core rid size r, putWait core rid idx (.search want (found ++ [r]) since), k (found ++ [r])]

/-- Claims until the search has what it wants or finds no more. -/
def searchAll (core rid idx want since : Nat) : Nat → List (Nat × Nat) → (List (Nat × Nat) → Act) → Act
  | 0, found, k => k found
  | n + 1, found, k => searchStep core rid idx want since found fun found' =>
      if found'.length = found.length then k found else searchAll core rid idx want since n found' k

/-- `FORK` (R297): the join cell is taken and the search starts at fire; the claim is started at commit. -/
def execFork (lsid : BitVec 4) (wait : Bool) (p : Pred) (s : State) : Host.Outcome State Fault Refusal :=
  fireWith (.fork lsid wait p) (fun f => withOperands f [f.a, f.b, f.c] [f.a, f.b, f.c] (.get fun s =>
    let place := s.poolPlace f.core 16 16
    require f [(f.a.high == 0 && f.a.num % 16 == 0 && 0x01800000 ≤ f.a.num && f.a.num ≤ 0x0183FFF0, 0x0201),
               (place.isSome, 0x0209)]
      (.all [poolTake f.core (place.getD 0) 16,
             addEffect f (.fork (256, 0) f.a.num f.b.num f.c.num (place.getD 0) wait),
             putWait f.core f.rid f.idx (.search 1 [] s.cycle)]))) s

/-- `FENCE` (R294). -/
def execFence (lsid : BitVec 4) (scope : BitVec 3) (p : Pred) (s : State) : Host.Outcome State Fault Refusal :=
  fireWith (.fence lsid scope p) (fun f => addEffect f (.fence scope.toNat)) s

/-! ### Control registers (R301) -/

/-- The cluster-supervisor role of a row's function for its cluster (R174, R307). -/
def State.supervisor (s : State) (core rid : Nat) : Bool :=
  let f := s.tenant core rid
  let cl := clusterOf core
  f == 0 || (bit (s.funcWord f 1) cl && (List.range 16).all fun i => s.ownsCore f (16 * cl + i))

/-- A register and index that exist. -/
def ctlExists (reg index : Nat) : Bool :=
  match reg with
  | 0x0001 => index < 8
  | 0x0002 | 0x0010 | 0x0020 | 0x0021 | 0x0022 | 0x0023 | 0x0024 | 0x0028 | 0x0030 => index == 0
  | 0x0031 => index < 2048
  | _ => false

/-- Registers of the cluster-supervisor role. -/
def ctlSupervised (reg : Nat) : Bool := reg == 0x0010 || (0x0020 ≤ reg && reg ≤ 0x0024)

/-- The two words of a trace ring entry (R154). -/
def TraceEntry.word (e : TraceEntry) (w : Nat) : Nat :=
  if w = 0 then e.time
  else e.src * 2 ^ 56 + e.kind * 2 ^ 54 + e.held.toNat * 2 ^ 53 + e.size * 2 ^ 50 + e.addr

/-- The value of a control register (R70, R129, R143, R154, R172). -/
def State.ctlValue (s : State) (core rid reg index : Nat) : Nat :=
  let c := s.coreSt core
  let k := s.clusterSt (clusterOf core)
  match reg with
  | 0x0001 => c.bconf.getD index 0
  | 0x0002 => (s.row? core rid).elim 0 (·.outst)
  | 0x0010 => k.flagsum.toBits
  | 0x0020 => k.epoch
  | 0x0021 => k.used
  | 0x0022 => k.late
  | 0x0023 => k.unused
  | 0x0024 => k.fills
  | 0x0028 => c.hyctl
  | 0x0030 => c.trEn.toNat * 2 ^ 31 + c.trWrap.toNat * 2 ^ 30 + c.trNext
  | _ => ((Tab.find? c.trace (index / 2)).elim 0 fun e => e.word (index % 2))

/-- Write a control register, by its access codes (R8, R301). -/
def ctlWrite (core reg index v : Nat) : Act :=
  let w := v % 2 ^ 32
  match reg with
  | 0x0001 => modCore core fun c => { c with bconf := c.bconf.set index w }
  | 0x0010 => clearFlagsum (clusterOf core) w
  | 0x0021 => modCluster (clusterOf core) fun k => { k with used := w }
  | 0x0022 => modCluster (clusterOf core) fun k => { k with late := w }
  | 0x0023 => modCluster (clusterOf core) fun k => { k with unused := w }
  | 0x0024 => modCluster (clusterOf core) fun k => { k with fills := w }
  | 0x0028 => modCore core fun c => { c with hyctl := v % 256 }
  | 0x0030 => modCore core fun c => { c with trEn := bit v 31 }
  | _ => .done

/-- The checks of CTLRD and CTLWR (R301). -/
def ctlChecks (s : State) (f : Fired) : List (Bool × Nat) :=
  let reg := f.a.num % 2 ^ 16
  [(f.a.high == 0 && ctlExists reg (f.a.num / 2 ^ 16), 0x0606), (!ctlSupervised reg || s.supervisor f.core f.rid, 0x0607)]

/-- `CTLRD` (R301). -/
def execCtlrd (lsid : BitVec 4) (t0 : Target) (p : Pred) (s : State) : Host.Outcome State Fault Refusal :=
  fireWith (.ctlrd lsid t0 p) (fun f => withOperands f [f.a] [f.a] (.get fun s =>
    require f (ctlChecks s f)
      (deliver f.core f.rid f.idx f.sh (.ofNat (s.ctlValue f.core f.rid (f.a.num % 2 ^ 16) (f.a.num / 2 ^ 16)))
        (s.cycle + f.sh.lat - 1)))) s

/-- `CTLWR` (R301). -/
def execCtlwr (lsid : BitVec 4) (p : Pred) (s : State) : Host.Outcome State Fault Refusal :=
  fireWith (.ctlwr lsid p) (fun f => withOperands f [f.a, f.b] [f.a, f.b] (.get fun s =>
    require f (ctlChecks s f) (addEffect f (.ctlwr (f.a.num % 2 ^ 16) (f.a.num / 2 ^ 16) f.b.num)))) s

/-! ### System requests (R302, R305) -/

/-- Records of a function's system-call ring: SCCTL.SIZE, from 1 to 256. -/
def State.callRecords (s : State) (f : Nat) : Nat :=
  let n := s.bar f 0x40 2
  if 1 ≤ n ∧ n ≤ 256 then n else 0

/-- The lowest-numbered free record. -/
def State.freeRecord (s : State) (f : Nat) : Option Nat :=
  (List.range (s.callRecords f)).find? fun i => !(s.func f).calls.any fun c => c.index == i

/-- What an instruction needs to be eligible beside its operands is there (R122, R269, R302). -/
def State.needMet (s : State) (core rid : Nat) (i : Instr) : Bool :=
  match Machine.Instr.need i with
  | Need.nothing => true
  | Need.entry => (s.freeEntry core).isSome
  | Need.record => (s.freeRecord (s.tenant core rid)).isSome

/-- `SYSC` (R302): a record is reserved at fire and its index delivered; the posting waits for the commit. -/
def execSysc (lsid : BitVec 4) (imm : BitVec 6) (t0 : Target) (p : Pred) (s : State) : Host.Outcome State Fault Refusal :=
  fireWith (.sysc lsid imm t0 p) (fun f => withOperands f [f.a, f.b, f.c] [f.a, f.b, f.c] (.get fun s =>
    let rbar := f.c.high
    require f [(bits f.c.num 31 21 == 0 && f.c.num % 8 == 0, 0x0608),
               (rbar == 0 || (barrierForm rbar && rbar / 2 ^ 24 == f.core), 0x0507)]
      (let fn := s.tenant f.core f.rid
       match s.freeRecord fn with
       | none => unfire f
       | some i =>
         .all [modFunc fn fun x => { x with calls := x.calls ++ [
                 { index := i, posted := false, orphan := false, org := f.origin s, reply := f.c.num % 2 ^ 21, rbar := rbar, answer := none }] },
               addEffect f (.sysc i imm.toNat f.a.num f.b.num (f.c.num % 2 ^ 21) rbar),
               deliver f.core f.rid f.idx f.sh (.ofNat i) (s.cycle + f.sh.lat - 1)]))) s

end Sys2Proof.Machine
end

