-- ==== Sys2Proof/Machine/Exits.lean ====
section
/-!
DEFINITION. The exits (R204 to R217): each, when taken, makes its checks and is held; its effect acts at the boundary, in
Machine/Block.lean.
-/

namespace Sys2Proof.Machine

/-- A valid block address (R204). -/
def validBlock (a : Nat) : Bool := a % 16 == 0 && 0x01800000 ≤ a && a ≤ 0x0183FFF0

/-- The target of an exit: header address + 16 × OFF18 (R204). -/
def exitTarget (pc : Nat) (off : BitVec 18) : Nat := wrap 32 ((pc : Int) + 16 * off.toInt)

/-- FallThrough of a header address (R206). -/
def fallThrough (pc : Nat) (h : List Nat) : Nat := pc + 16 * ((32 + 2 * headerHwords h + 15) / 16)

/-- A register number of a header in a pass of a REP block (R40). -/
def passReg (m pass stride : Nat) : Nat :=
  if m < 24 then (m + pass * stride) % 24
  else if m < 32 then 24 + (m - 24 + pass * stride) % 8
  else m

/-- Whether a used write entry of the last pass names s7 (R206). -/
def Inst.writesS7 (x : Inst) : Bool :=
  (List.range 8).any fun j =>
    let r := writeEntry x.header j % 64
    r != 63 && passReg r (headerRcount x.header) (headerStride x.header) == 31

/-- An exit is taken (R192, R204): operands consumed and not null, then its checks (commit class), then it is held. A second
taken exit raises ExitCount (R193), which comes before the checks that are its own (log 132). -/
def takeExit (f : Fired) (kind : ExitKind) (target : Nat) (used : List Token) (checks : List (Bool × Nat)) : Act :=
  if used.any Token.poisoned then failAt f.core f.rid f.idx 0x0804
  else if used.any Token.allNull then .done
  else
    .get fun s =>
      if f.slot.inst.exit.isSome then checkAt f.core f.rid f.idx 0x0107 true
      else match checks.find? fun c => !c.1 with
        | some c => checkAt f.core f.rid f.idx c.2 true
        | none =>
          let e : Exit := { kind := kind, index := f.idx, target := target, a := f.a.num, b := f.b.num, c := f.c.num,
                            due := s.cycle + f.sh.lat - 1, tasks := [], cell := 0 }
          modInst f.core f.rid fun x => { x with exit := some e }

/-- A taken exit with a target that must be a valid block. -/
def takeTo (f : Fired) (kind : ExitKind) (off : BitVec 18) (used : List Token) (checks : List (Bool × Nat)) : Act :=
  let t := exitTarget f.slot.inst.pc off
  takeExit f kind t used (checks ++ [(validBlock t, 0x0201)])

/-- `BR` (R206). -/
def execBr (off : BitVec 18) (p : Pred) (s : State) : Host.Outcome State Fault Refusal :=
  fireWith (.br off p) (fun f => takeTo f .br off [] []) s

/-- `BRX` (R206). -/
def execBrx (p : Pred) (s : State) : Host.Outcome State Fault Refusal :=
  fireWith (.brx p) (fun f => takeExit f .brx f.a.num [f.a] [(f.a.high == 0 && validBlock f.a.num, 0x0201)]) s

/-- `CALL` (R206). -/
def execCall (off : BitVec 18) (p : Pred) (s : State) : Host.Outcome State Fault Refusal :=
  fireWith (.call off p) (fun f => takeTo f .call off [] [(!f.slot.inst.writesS7, 0x0202)]) s

/-- `LOOP` (R207), whose checks wait for the commit conditions (R204). -/
def execLoop (off : BitVec 18) (p : Pred) (s : State) : Host.Outcome State Fault Refusal :=
  fireWith (.loop off p) (fun f => takeExit f .loop (exitTarget f.slot.inst.pc off) [f.a] []) s

/-- `ENDL` (R207). -/
def execEndl (p : Pred) (s : State) : Host.Outcome State Fault Refusal :=
  fireWith (.endl p) (fun f => takeExit f .endl 0 [] []) s

/-- `BRKL` (R207). -/
def execBrkl (off : BitVec 18) (p : Pred) (s : State) : Host.Outcome State Fault Refusal :=
  fireWith (.brkl off p) (fun f => takeExit f .brkl (exitTarget f.slot.inst.pc off) [] []) s

/-- `WAITB` (R209). -/
def execWaitb (off : BitVec 18) (p : Pred) (s : State) : Host.Outcome State Fault Refusal :=
  fireWith (.waitb off p) (fun f => takeTo f .waitb off [f.a, f.b]
    [(f.a.num / 2 ^ 21 == 0 && f.a.num % 32 == 0, 0x0401)]) s

/-- `WAITE` (R209). -/
def execWaite (off : BitVec 18) (p : Pred) (s : State) : Host.Outcome State Fault Refusal :=
  fireWith (.waite off p) (fun f => takeTo f .waite off [f.a] [(f.a.num / 64 == 0, 0x0404)]) s

/-- `WAITQR` (R209). -/
def execWaitqr (off : BitVec 18) (p : Pred) (s : State) : Host.Outcome State Fault Refusal :=
  fireWith (.waitqr off p) (fun f => .get fun s => takeTo f .waitqr off [f.a] [(s.isGangQueue f.core f.a.num, 0x0408)]) s

/-- `WAITQD` (R209). -/
def execWaitqd (off : BitVec 18) (p : Pred) (s : State) : Host.Outcome State Fault Refusal :=
  fireWith (.waitqd off p) (fun f => .get fun s => takeTo f .waitqd off [f.a] [(s.isGangQueue f.core f.a.num, 0x0408)]) s

/-- `YIELD` (R211). -/
def execYield (off : BitVec 18) (p : Pred) (s : State) : Host.Outcome State Fault Refusal :=
  fireWith (.yield off p) (fun f => takeTo f .yield off [] []) s

/-- `HALT` (R212). -/
def execHalt (off : BitVec 18) (p : Pred) (s : State) : Host.Outcome State Fault Refusal :=
  fireWith (.halt off p) (fun f => takeTo f .halt off [] []) s

/-- `TRAP` (R213). -/
def execTrap (code : BitVec 15) (p : Pred) (s : State) : Host.Outcome State Fault Refusal :=
  fireWith (.trap code p) (fun f => takeExit f (.trap code.toNat) f.slot.inst.pc [] []) s

/-- `EFENCE` (R214). -/
def execEfence (off : BitVec 18) (p : Pred) (s : State) : Host.Outcome State Fault Refusal :=
  fireWith (.efence off p) (fun f => takeTo f .efence off [] []) s

/-- `SPLICE` (R217). -/
def execSplice (p : Pred) (s : State) : Host.Outcome State Fault Refusal :=
  fireWith (.splice p) (fun f => .get fun s =>
    takeExit f .splice f.slot.inst.pc [] [(s.link f.core f.rid != 0, 0x0208)]) s

/-- `FORKR` (R215): the checks that do not depend on the search, then, for N ≠ 0, the search. -/
def execForkr (off : BitVec 18) (p : Pred) (s : State) : Host.Outcome State Fault Refusal :=
  fireWith (.forkr off p) (fun f => .get fun s =>
    .all [takeTo f .forkr off [f.a, f.b, f.c]
            [(f.b.num != 0 || f.a.num == 0, 0x0205), (f.c.high == 0 && validBlock f.c.num, 0x0201)],
          .get fun t => .when ((t.slot? f.core f.rid).any fun x => x.inst.failed.isNone
              && x.inst.exit.any (fun e => e.index == f.idx) && f.a.num != 0)
            (putWait f.core f.rid f.idx (.search (min ((f.a.num + f.b.num - 1) / f.b.num) 256) [] s.cycle))]) s

/-- `FORK_CLAIM` (R216): the next claim of a search of this row reaches its core. -/
def execForkClaim (core rid : Nat) (s : State) : Host.Outcome State Fault Refusal :=
  stepWith (.get fun s =>
    match s.slot? core rid with
    | none => .done
    | some sl =>
      match sl.inst.waits.find? fun w => (match w.2 with | .search want found _ => found.length < want | _ => false) with
      | some (idx, .search want found since) =>
        .when (sl.inst.viewsKnown idx) (searchStep core rid idx want since found fun _ => .done)
      | _ => .done) s

/-- `FORK_SEARCH_COMPLETE` (R216): the search ends with the rows it has claimed; FORKR takes its join cell; the checks
ForkNoRows and ViewPool are made (R215, R297). -/
def execForkSearchComplete (core rid index : Nat) (s : State) : Host.Outcome State Fault Refusal :=
  stepWith (.get fun s =>
    match s.slot? core rid with
    | none => .done
    | some sl =>
      match sl.inst.search? index with
      | none => .done
      | some (want, found, since) =>
        .when (sl.inst.viewsKnown index) <| searchAll core rid index want since 256 found fun rows =>
          match sl.inst.exit with
          | some e =>
            if e.index = index then
              .get fun s =>
                if rows.isEmpty then .all [clearWaitAt core rid index, checkAt core rid index 0x0206 true]
                else match s.poolPlace core 16 16 with
                  | none => checkAt core rid index 0x0209 true
                  | some a => .all [poolTake core a 16, clearWaitAt core rid index,
                      modInst core rid fun x => { x with exit := some { e with tasks := rows, cell := a } }]
            else forkDone core rid index rows
          | none => forkDone core rid index rows) s
where
  /-- The search of a FORK ends. -/
  forkDone (core rid index : Nat) (rows : List (Nat × Nat)) : Act :=
    match rows.head? with
    | none => .all [clearWaitAt core rid index, failAt core rid index 0x0206]
    | some r => .all [clearWaitAt core rid index, modInst core rid fun x => { x with effects := x.effects.map fun e =>
        if e.2.1 = index then
          match e.2.2 with
          | .fork _ entry s0 s1 cell wait => (e.1, e.2.1, .fork r entry s0 s1 cell wait)
          | _ => e
        else e }]

end Sys2Proof.Machine
end

