-- ==== Sys2Proof/Machine/Block.lean ====
section
/-!
DEFINITION. Block instances from decoding to the boundary (R65 to R72, R187 to R195, R338 to R345): opening, header reads,
commit conditions, the commit, the boundary and the exits' effects, traps, forced closes and closings, and the activation
scheduler (R97 to R100).
-/

namespace Sys2Proof.Machine

/-! ### Decoding an instance (R187) -/

/-- A decode-class check: its code, whether an instruction is named, and its index. -/
structure Bad where
  code : Nat
  tvalid : Bool
  tidx : Nat
  deriving DecidableEq, Repr

def Bad.header : Bad := { code := 0x0101, tvalid := false, tidx := 0 }

/-- The body's instructions, from its halfwords: `n` more of them, at halfword `off`, index `i`, in `hw` halfwords. An
instruction cut off by the end of the body is BlockHeader (R347). -/
def decodeBody (hword : Nat → Nat) (hw : Nat) : Nat → Nat → Nat → Except Bad (List Nat)
  | 0, off, _ => if off = hw then .ok [] else .error .header
  | n + 1, off, i =>
    let h := hword off
    let long := bit h 0
    if hw ≤ off ∨ (long ∧ hw ≤ off + 1) then .error .header
    else
      let w := if long then h + 65536 * hword (off + 1) else h
      match insOf w with
      | none => .error { code := 0x0102, tvalid := true, tidx := i }
      | some _ => match decodeBody hword hw n (off + if long then 2 else 1) (i + 1) with
        | .ok ws => .ok (w :: ws)
        | .error e => .error e

/-- A target names a slot that its instruction uses, or a used write entry (R186). -/
def validTarget (h : List Nat) (shs : List Shape) (t : Nat) : Bool :=
  let i := t % 64
  match t / 64 with
  | 0 => (shs[i]?).any (·.a.isSome)
  | 1 => (shs[i]?).any (·.b.isSome)
  | 2 => (shs[i]?).any (·.c.isSome)
  | _ => if i < 32 then (shs[i]?).any (·.p != .always) else i < 40 && writeEntry h (i - 32) % 64 != 63

/-- A register number a read entry may name (R184). -/
def readableReg (r : Nat) : Bool := r < 32 || (48 ≤ r && r < 56)

/-- No element occurs twice. -/
def noRepeat : List Nat → Bool
  | [] => true
  | a :: t => !t.contains a && noRepeat t

/-- The write entries are valid (R185). -/
def writeEntriesValid (h : List Nat) : Bool :=
  let es := (List.range 8).map (writeEntry h)
  es.all (fun e => e < 32 || e == 63) && noRepeat (es.filter (· != 63))

/-- A fresh instance. -/
def Inst.blank (pc : Nat) (h ins : List Nat) : Inst :=
  { pc := pc, header := h, ins := ins, pass := 0, start := 0, rm := 0, key := 0, cseed := 0,
    reads := (List.range 8).filter fun e => readReg h e != 63, toks := [], fired := [], waits := [], effects := [],
    exit := none, flags := {}, atomicDone := false, failed := none, busy := [], drained := false }

/-- The checks of R187 that follow the decoding of the body, in order. -/
def Inst.decodeChecks (x : Inst) : Option Bad :=
  let h := x.header
  let shs := (x.ins.filterMap insOf).map shape
  let used := (List.range 8).filter fun e => readReg h e != 63
  let slots := (List.range x.ins.length).flatMap fun i =>
    let sh := x.shapeAt i
    (if sh.a.isSome then [slotA i] else []) ++ (if sh.b.isSome then [slotB i] else [])
      ++ (if sh.c.isSome then [slotC i] else []) ++ (if sh.p != .always then [slotP i] else [])
  let entries := ((List.range 8).filter fun j => writeEntry h j != 63).map entryT
  if !used.all (fun e => readableReg (readReg h e) && readEntry h e / 2 ^ 14 == 0 && validTarget h shs (readTarget h e)) then
    some .header
  else if !(List.range 8).all (fun e => readReg h e != 63 || readEntry h e == 0x3F00) then some .header
  else if !writeEntriesValid h then some .header
  else match (List.range x.ins.length).find? fun i => !(x.shapeAt i).targets.all (validTarget h shs) with
    | some i => some { code := 0x0101, tvalid := true, tidx := i }
    | none =>
      if !noRepeat (shs.filterMap (·.lsid)) || !shs.any (·.isExit)
        || !(slots ++ entries).all fun t => 1 ≤ x.producers t then some .header
      else none

/-- DecodeBlock (R187), after the check of PC (PcRange, R348). -/
def State.decodeBlock (s : State) (core pc : Nat) : Except Bad Inst :=
  if !validBlock pc then .error { code := 0x0103, tvalid := false, tidx := 0 }
  else
    let h := (List.range 4).map fun w => s.loc core (pc + 8 * w) 8
    let w0 := h.getD 0 0
    if bits w0 63 20 ≠ 0 ∨ (!headerRep h ∧ bits w0 19 13 ≠ 0) ∨ headerHwords h < 1 ∨ 64 < headerHwords h then
      .error .header
    else match decodeBody (fun o => s.loc core (pc + 32 + 2 * o) 2) (headerHwords h) (headerIcount h + 1) 0 0 with
      | .error e => .error e
      | .ok ins =>
        let x := Inst.blank pc h ins
        match x.decodeChecks with
        | some e => .error e
        | none => .ok x

/-- The block at an address as it is fetched (R113); a failed decode check is held in it. -/
def State.fetchBlock (s : State) (core pc : Nat) : Inst :=
  match s.decodeBlock core pc with
  | .ok x => x
  | .error e => { Inst.blank pc [0, 0, 0, 0] [] with
      failed := some { code := e.code, tvalid := e.tvalid, tidx := e.tidx, twe := false, cycle := 0, commit := false } }

/-- The instance of a fetched block that starts in a cycle, in a pass (R229). The trap boundary of a failed decode check falls in the cycle
in which the header reads could first have been served (R338). -/
def State.newInst (s : State) (core rid start rep : Nat) (x : Inst) : Inst :=
  { x with
    pass := if headerRep x.header && rep ≤ headerRcount x.header then rep else 0
    failed := x.failed.map fun k => { k with cycle := start - 1 }
    start := start, rm := s.rowLe core rid 0x10 1 % 4, key := s.rowLe core rid 0x7C 4, cseed := s.rowLe core rid 0x78 4 }

/-- The start of an instance of the block at PC, of which `next` may have been fetched before. An injection may report an error in the
instruction store: an uncorrectable one fails the instance in the decode class, with TVALID 0 (R374). -/
def fetchInst (core rid start rep : Nat) (next : Option Inst) (k : Inst → Act) : Act :=
  .get fun s =>
    let pc := s.pc core rid
    let x := s.newInst core rid start rep ((next.filter (·.pc == pc)).getD (s.fetchBlock core pc))
    match s.injects 4 core 0 with
    | some 1 => .all [useInjection, reportError 4 core (s.tenant core rid) x.pc false true false, k x]
    | some 2 => .all [useInjection, reportError 4 core (s.tenant core rid) x.pc true true false,
        k { x with failed := some { code := 0x0804, tvalid := false, tidx := 0, twe := false, cycle := start - 1, commit := false } }]
    | _ => k x

/-- The next instance of an open row starts (R72): of the block fetched during the commit, where PC is as its exit gave it. -/
def beginInst (core rid start : Nat) : Act :=
  .get fun s => fetchInst core rid start 0 ((s.slot? core rid).bind (·.next)) fun x => modSlot core rid fun l =>
    { l with inst := x, next := none, phase := if x.failed.isSome then .trap start else .running }

/-! ### Slots of a bank -/

/-- Bank of a row. -/
def bankOf (rid : Nat) : Nat := rid / 64

/-- Open slots of a bank. -/
def State.bankSlots (s : State) (core bank : Nat) : List Slot := s.slots.filter fun x => x.core == core && bankOf x.rid == bank

/-- Ready rows of a bank that a slot might take. -/
def State.readyRows (s : State) (core bank : Nat) : List Nat :=
  (s.rowsOf core).filter fun r => bankOf r == bank && s.code core r == 1 && !s.isOpen core r

/-- The stage of a row is flowing (R98). -/
def State.flowing (s : State) (core rid : Nat) : Bool :=
  match s.gang? (s.gangId core rid) with
  | none => true
  | some g => g.queues.all fun q =>
      (q.dst != s.stage core rid || 1 ≤ s.qCount core q.base) && (q.src != s.stage core rid || s.qCount core q.base < s.qDepth core q.base)

/-- A row could open with the slots `open'` of its bank taken (R64). -/
def State.couldOpen (s : State) (core rid : Nat) (open' : List Slot) : Bool :=
  open'.length < 4 && (s.gang? (s.gangId core rid)).any fun g =>
    g.dispatched && (open'.filter fun x => s.gangId core x.rid == g.id).length < g.openLimit

/-- The keys of R97, least first. -/
def State.openKey (s : State) (core rid : Nat) : List Nat :=
  match s.row? core rid with
  | none => []
  | some r => [if r.aged then 0 else 1, if r.aged || s.flowing core rid then 0 else 1, 15 - s.prio core rid, r.ready, rid]

/-- Lexicographic order of equally long lists. -/
def keyLt : List Nat → List Nat → Bool
  | a :: as, b :: bs => a < b || (a == b && keyLt as bs)
  | _, _ => false

/-- The element of least key. -/
def leastBy {α : Type} (key : α → List Nat) : List α → Option α
  | [] => none
  | x :: xs => match leastBy key xs with
    | none => some x
    | some y => if keyLt (key y) (key x) then some y else some x

/-- `ACTIVATION` (R97): a free slot of a bank takes the best ready row; its opening starts and its block is decoded. -/
def execActivation (core bank : Nat) (s : State) : Host.Outcome State Fault Refusal :=
  stepWith (.get fun s =>
    let ok := (s.coreSt core).stopping.isNone && !(s.coreSt core).disabled
    match leastBy (s.openKey core) ((s.readyRows core bank).filter fun r => ok && s.couldOpen core r (s.bankSlots core bank)) with
    | none => .done
    | some rid =>
      fetchInst core rid (s.cycle + 4) ((s.row? core rid).elim 0 (·.rep)) none fun x => .all [setCode core rid 2, modRow core rid fun r => { r with aged := false },
            upd fun s => { s with slots := s.slots ++ [
              { core := core, rid := rid, openedAt := s.cycle, boundaries := 0, mark := none, phase := .opening s.cycle,
                inst := x, next := none }] }]) s

/-- `ROW_AGED` (R100): a row ready for 2,048 cycles is aged; while no slot may take it, one open row of its gang is marked:
of rows open equally long that of the lower ROWID (log 146). -/
def execRowAged (core rid : Nat) (s : State) : Host.Outcome State Fault Refusal :=
  stepWith (.get fun s =>
    let slots := s.bankSlots core (bankOf rid)
    let mine := slots.filter fun x => s.code core x.rid == 2 && s.gangId core x.rid == s.gangId core rid && x.mark.isNone
    .when (s.code core rid == 1 && (s.row? core rid).any fun r => r.ready + 2048 ≤ s.cycle)
      (.all [modRow core rid fun r => { r with aged := true },
             .when (!s.couldOpen core rid slots && !slots.any fun x => x.mark == some rid)
               (match leastBy (fun x : Slot => [x.openedAt, x.rid]) mine with
                | some x => modSlot core x.rid fun y => { y with mark := some rid }
                | none => .done)])) s

/-! ### Header reads (R51, R69) -/

/-- A token of the row register `m` (R50). -/
def State.regToken (s : State) (core rid m : Nat) : Token :=
  if m < 24 then
    .vec ((List.range 32).map fun i =>
      let a := rowKey core rid (0x100 + 128 * m + 4 * i)
      some (BitVec.ofNat 32 (s.le a 4), s.poisoned a))
  else
    let a := rowKey core rid (0x80 + 8 * (m - 24))
    .ofNat (s.le a 8) (s.poisoned a || s.poisoned (a + 4))

/-- A token of a read-only source (R51). -/
def State.sourceToken (s : State) (core rid m : Nat) : Token :=
  match m with
  | 48 => .ofNat rid
  | 49 => .ofNat core
  | 50 => .ofNat (clusterOf core)
  | 51 => .ofNat (dieOf core)
  | 52 => .vec ((List.range 32).map fun i => some (BitVec.ofNat 32 i, false))
  | 53 => .ofNat (s.gangId core rid)
  | 54 => .ofNat s.time
  | _ => .ofNat (s.stage core rid)

/-- The register of read entry `e` in the instance's pass. -/
def Inst.readOf (x : Inst) (e : Nat) : Nat := passReg (readReg x.header e) x.pass (headerStride x.header)

/-- Serve read entry `e` of a row in this cycle. -/
def serveRead (x : Slot) (e : Nat) : Act :=
  .get fun s =>
    let m := x.inst.readOf e
    .all [.when (m < 32) (injectBytes x.core
      (if m < 24 then (List.range 128).map (rowBase x.rid + 0x100 + 128 * m + ·) else (List.range 8).map (rowBase x.rid + 0x80 + 8 * (m - 24) + ·))
      (s.tenant x.core x.rid)), .get fun s =>
    let v := if m < 32 then s.regToken x.core x.rid m else s.sourceToken x.core x.rid m
    modInst x.core x.rid fun i =>
      { i with reads := i.reads.filter (· != e),
               toks := i.toks ++ [{ dest := readTarget i.header e, val := v, due := s.cycle, from? := 64 + e }] }]

/-- `HEADER_READ` (R69): a sub-array serves the read of the instance that started earliest; each competing read of another row
counts in BCONF. Reads of read-only sources take no sub-array (R51): those numbered as the sub-array are served with it. -/
def execHeaderRead (core bank sub : Nat) (s : State) : Host.Outcome State Fault Refusal :=
  stepWith (.get fun s =>
    let live := (s.bankSlots core bank).filter fun x => x.phase == .running && x.inst.start ≤ s.cycle && x.inst.failed.isNone
    let first (x : Slot) : Option Nat := x.inst.reads.find? fun e => x.inst.readOf e < 32 && x.inst.readOf e % 4 == sub
    let want := live.filterMap fun x => (first x).map fun e => (x, e)
    .all [.each live fun x => .each (x.inst.reads.filter fun e => 32 ≤ x.inst.readOf e && x.inst.readOf e % 4 == sub)
            fun e => serveRead x e,
          match leastBy (fun p : Slot × Nat => [p.1.inst.start, p.1.rid]) want with
          | none => .done
          | some p => .all [serveRead p.1 p.2, modCore core fun c => { c with
              bconf := c.bconf.set bank (min (c.bconf.getD bank 0 + (want.length - 1)) 0xFFFFFFFF) }]]) s

/-! ### Dispatch -/

/-- Dispatch one acknowledged access of a row: its count rises and it takes the next dispatch number (R143). -/
def counted (core rid lsid : Nat) (k : Origin → Act) : Act :=
  .get fun s =>
    match s.row? core rid with
    | none => .done
    | some r =>
      .all [modRow core rid fun r => { r with outst := r.outst + 1, nextSeq := r.nextSeq + 1, pending := r.pending ++ [r.nextSeq + 1] },
            k { core := core, rid := rid, lsid := lsid, isExit := false, gang := s.gangId core rid, func := s.tenant core rid,
                seq := r.nextSeq + 1 }]

/-- An access that is not counted. -/
def uncounted (core rid lsid : Nat) (k : Origin → Act) : Act :=
  .get fun s => k { core := core, rid := rid, lsid := lsid, isExit := false, gang := s.gangId core rid,
                    func := s.tenant core rid, seq := 0 }

/-- A store that is not counted, in its place among the dispatches of its row: behind the last one. -/
def uncountedStore (core rid lsid : Nat) (k : Origin → Act) : Act :=
  .get fun s => uncounted core rid lsid fun org => k { org with seq := (s.row? core rid).elim 0 (·.nextSeq) }

/-- A message of a row leaves; it is held for a fence (R147) or, between the row's superstep arrival and the next step's
notice, for that notice (R366). -/
def sendRow (org : Origin) (dst : Nat) (p : Payload) (fenced : Bool) : Act :=
  .get fun s =>
    let r := s.row? org.core org.rid
    let fence := if fenced then (r.bind fun r => r.fences.getLast?).map (·.1) else none
    let m : Msg := { src := org.core, dst := dst, org := org, pay := p }
    sendPaired org { m with held := (m.leaves && s.stepHeld org) || fence.isSome, waits := fence.getD 0 } none

/-- The fields of slot B that name identifier entries, lowest first (R253). -/
def idFields (op b : Nat) : List Nat :=
  let at' (lo : Nat) : Nat := b / 2 ^ lo % 64
  if op = 0x71 ∨ op = 0x75 ∨ op = 0x76 then [at' 0, at' 8, at' 16] else if op = 0x72 then [at' 0, at' 16] else [at' 16]

/-- Key of an identifier entry (R250). -/
def tidKey (core e : Nat) : Nat := Space.loc core (0x01300000 + 32 * e)

/-- A command message is formed at dispatch (R254). -/
def State.formCmd (s : State) (org : Origin) (c : OpaCmd) : OpaCmd :=
  { c with images := (idFields c.op c.b).map fun e => s.bytes (tidKey org.core e) 32, tenant := org.func,
           poisoned := (idFields c.op c.b).any fun e => (List.range 8).any fun w => s.poisoned (tidKey org.core e + 4 * w) }

/-- A store of a row into its own core at commit (R74): bytes in other rows that are open, or claimed, are held for them; the
others are performed at once. -/
def commitStore (core rid lsid : Nat) (bs : List PByte) : Act :=
  uncountedStore core rid lsid fun org => placeStore core rid org bs .own fun _ _ c => match c with
    | some c => deliverCond core rid c
    | none => .done

/-- Post a system-call record (R302), PSEQ last. -/
def postCall (core rid index svc a0 a1 reply rbar : Nat) (org : Origin) : Act :=
  .get fun s =>
    let f := s.tenant core rid
    let n := (s.func f).callCount + 1
    let key := hostKey (s.bar f 0x38 8 + 32 * index)
    let seq := if n % 256 = 0 then 1 else n % 256
    .all [putLe key 1 svc, putLe (key + 2) 2 rid, putLe (key + 4) 2 core, putLe (key + 6) 2 (s.gangId core rid),
          putLe (key + 8) 8 a0, putLe (key + 0x10) 8 a1, putLe (key + 0x18) 4 reply, putLe (key + 0x1C) 4 rbar,
          putLe (key + 1) 1 seq,
          putLe (Space.bar f 0x44) 2 (s.bar f 0x44 2 + 1),
          modFunc f fun x => { x with callCount := n, calls := x.calls.map fun c =>
            if c.index == index then { c with posted := true, org := org } else c },
          msix f 1, acknowledge core org none true]

/-- Depth of the leaf of a task in the tree of Split (R215), with `n` levels left. -/
def leafDepth : Nat → Nat → Nat → Nat
  | 0, _, _ => 0
  | n + 1, k, i =>
    if k ≤ 1 then 0
    else
      let kl := (k + 1) / 2
      1 + (if i < kl then leafDepth n kl i else leafDepth n (k - kl) (i - kl))

/-- Subrange of a task (R215): first, length. -/
def taskRange : Nat → Nat → Nat → Nat → Nat → Nat × Nat
  | 0, lo, hi, _, _ => (lo, hi - lo)
  | n + 1, lo, hi, k, i =>
    if k ≤ 1 then (lo, hi - lo)
    else
      let kl := (k + 1) / 2
      let mid := lo + (hi - lo) * kl / k
      if i < kl then taskRange n lo mid kl i else taskRange n mid hi (k - kl) (i - kl)

/-- Start a fork of a row over the rows it has claimed (R215, R297, R299): the join cell is written, its view entries
become forked, and each task row is sent its start message. `regs` gives s0 and s1 of a task. Its tiles are those that the parent has declared
by then, in its own block too (R215, R298). -/
def startFork (core rid cell entry : Nat) (tasks : List (Nat × Nat)) (wait : Bool) (regs : Nat → Nat × Nat) : Act :=
  .get fun s =>
    let k := tasks.length
    let views := s.viewsOf core rid
    let inst (r : Nat × Nat) : Nat := (s.row? r.1 r.2).elim 0 (·.view)
    let root := match tasks.head? with | some r => r.1 * 2 ^ 24 + inst r | none => 0
    .all [putLoc core cell 2 k, putLoc core (cell + 2) 2 k, putLoc core (cell + 4) 2 rid, putLoc core (cell + 6) 1 views.length,
          putLoc core (cell + 7) 1 1, putLoc core (cell + 8) 4 root, putLoc core (cell + 0x0C) 4 0,
          unpoison (Space.loc core cell) 16,
          .each views fun v => putBits (viewKey core v + 8) 8 63 62 2,
          upd fun s => { s with forks := s.forks ++ [
            { core := core, cell := cell, parent := rid, tasks := tasks.map fun r => (r.1, r.2, inst r), slots := views,
              wait := wait }] },
          .each (tasks.zipIdx) fun p =>
            uncounted core rid 0 fun org =>
              send { src := core, dst := p.1.1, org := org,
                     pay := .start p.1.2 (regs p.2).1 (regs p.2).2 p.2 k core cell entry }]

/-- A store or atomic of a row to its own core is still on its way through the remote window (R142). -/
def State.sendsHome (s : State) (core rid : Nat) : Bool :=
  s.mesh.any fun m => m.src == core && m.dst == core && m.org.core == core && m.org.rid == rid && m.pay.cls == some 0

/-- An arrival at an object of the row's own core at commit (R283), behind the row's stores and atomics that go there through the remote
window (R149). -/
def localArrival (core rid : Nat) (org : Origin) (a n e : Nat) : Act :=
  .get fun s =>
    if s.sendsHome core rid then sendRow org core (.arrive a n 0 e) false
    else arriveAt org core a n 0 e fun x => match x with
      | some x => deliverCond core rid x
      | none => .done

/-- An arrival at an object counts for a superstep barrier: the object is one, or it has one above it (R281, R366). -/
def State.underStep (s : State) : Nat → Nat → Nat → Bool
  | 0, _, _ => false
  | n + 1, core, a =>
    let par := s.loc core (a + 0x0C) 4
    bit (s.loc core a 1) 4 || (par % 2 ^ 21 != 0 && s.underStep n (par / 2 ^ 24) (par % 2 ^ 21))

/-- The 32 bytes by which BINIT arms an object (R282): PHASE as it stands. -/
def State.binitBytes (s : State) (core a expa pcore paddr : Nat) (sstep : Bool) : List PByte :=
  pbytes a 4 (s.loc core a 1 % 2 + 8 + 16 * sstep.toNat) false ++ pbytes (a + 4) 4 expa false ++ pbytes (a + 8) 4 0 false
    ++ pbytes (a + 0x0C) 4 (pcore * 2 ^ 24 + paddr) false ++ pbytes (a + 0x10) 8 0 false ++ pbytes (a + 0x18) 8 0 false

/-- An effect of kind `.arrive` (R283, R285): a DRAIN's arrival, and in a superstep gang every other one, waits until the accesses
dispatched before it are acknowledged; where none is outstanding, one at a local object is applied at commit. -/
def commitArrival (core rid lsid c a n e : Nat) (isRemote isDrain : Bool) : Act :=
  .get fun s =>
    let superstep := (s.gang? (s.gangId core rid)).any (·.superstep)
    let step := superstep && !isDrain
    let row := s.row? core rid
    let before := row.elim 0 (·.nextSeq) + 1
    let idle := row.all (·.pending.isEmpty)
    let hold (org : Origin) : Act :=
      let m : Msg := { src := core, dst := c, org := org, pay := .arrive a n 0 e, held := true, waits := before }
      if c = core then send m else sendPaired org m none
    .all [.when (superstep && s.underStep 64 c a) (modRow core rid fun r =>
            { r with arrived := r.arrived ++ [r.nextSeq + (isRemote || isDrain).toNat] }),
          if isDrain then counted core rid lsid fun org =>
            if c = core ∧ idle = true then .all [localArrival core rid { org with seq := 0 } a n e, acknowledge core org none true] else hold org
          else if isRemote then counted core rid lsid fun org => if step then hold org else sendRow org c (.arrive a n 0 e) false
          else uncounted core rid lsid fun org => if step && !idle then hold org else localArrival core rid org a n e]

/-- Which of the lanes that one instruction sends as messages of their own an effect is, counted from the first (R143, R377). -/
def Inst.laneOf (x : Inst) (place idx : Nat) : Option Nat :=
  let sent := (x.effects.zipIdx.filter fun e => e.1.2.1 == idx && match e.1.2.2 with | .remote .. => true | _ => false).map (·.2)
  if sent.length ≤ 1 then none else some (sent.takeWhile (· < place)).length

/-- One effect of a committing instance (R71, R195), the `lane`-th message of its instruction where that sends several. A FENCE takes a
dispatch number of its own (R147). BINIT writes as a store does (R52, R282): an object whose ARMED no store
may change is not armed (log 158). A plate transfer to or from memory takes its place in the queue at dispatch (R122, R269). -/
def commitEffect (core rid lsid : Nat) (lane : Option Nat) : Effect → Act
  | .store bs => commitStore core rid lsid bs
  | .remote c a n bs => counted core rid lsid fun org => sendRow { org with group := lane.elim 0 (org.seq - ·) } c (.store a n bs none) true
  | .remoteAtomic c op => counted core rid lsid fun org => sendRow org c (.atomic op none) true
  | .window c _ bs => counted core rid lsid fun org => sendRow org c
      (.opa { op := 0, fill := false, imm := 0, cap := 0, b := 0, c := 0, images := [], bytes := bs, poisoned := false,
              tenant := org.func, entry := none }) false
  | .lineStore off bs => uncountedStore core rid lsid fun org => sendRow org (16 * clusterOf core) (.lineStore (clusterOf core) off bs) false
  | .binit a expa pcore paddr sstep => .get fun s =>
      .all [writeLocal core (s.binitBytes core a expa pcore paddr sstep),
            .get fun s => modCore core fun c =>
              { c with armed := if bit (s.loc core a 1) 3 then insertSorted a c.armed else c.armed, cdone := c.cdone.erase a }]
  | .arrive c a n e isRemote isDrain => commitArrival core rid lsid c a n e isRemote isDrain
  | .signal cl l op => counted core rid lsid fun org => sendRow org (16 * cl) (.signal cl l op) false
  | .tidset e img => .all [put (tidKey core e) img, unpoison (tidKey core e) 32]
  | .vdecl k img v => .get fun s =>
      let size := leNat ((img.drop 4).take 2)
      let cur := s.slotEntry core rid k
      .all [match v with
            | some v => modCore core fun c => { c with viewRsv := c.viewRsv.filter (· != v) }
            | none => .done,
            match cur.orElse (fun _ => v) with
            | some e => if size = 0 then wipe (viewKey core e) 32
                else .all [put (viewKey core e) (img.take 8), putLe (viewKey core e + 8) 8 (2 ^ 62 + k * 512 + rid)]
            | none => .done,
            .each (cur.orElse (fun _ => v)).toList fun e => unpoison (viewKey core e) 32]
  | .halyard e => counted core rid lsid fun org => queueEntry core e fun h => { h with org := org, rsv := false }
  | .opa c => counted core rid lsid fun org => .all [
      .each c.entry.toList fun e => queueEntry core e fun h => { h with org := org, rsv := false, unstarted := true },
      injectBytes core ((idFields c.op c.b).flatMap fun e => (List.range 32).map (0x01300000 + 32 * e + ·)) org.func,
      .get fun s => sendRow org (bits c.cap 63 56) (.opa (s.formCmd org c)) true]
  | .fork t entry s0 s1 cell wait => startFork core rid cell entry [t] wait fun _ => (s0, s1)
  | .fence scope => modRow core rid fun r => { r with nextSeq := r.nextSeq + 1, fences := r.fences ++ [(r.nextSeq + 1, scope)] }
  | .ctlwr reg index v => ctlWrite core reg index v
  | .sysc i svc a0 a1 reply rbar => counted core rid lsid fun org => .get fun s =>
      if (s.gang? org.gang).any (fun g => g.paired || g.superstep) then sendRow org core (.post i svc a0 a1 reply rbar) false
      else postCall core rid i svc a0 a1 reply rbar org

/-! ### Commit conditions (R193) -/

/-- Accesses that an effect dispatches and the count of R143 takes. -/
def Effect.count : Effect → Nat
  | .remote .. => 1 | .remoteAtomic .. => 1 | .window .. => 1 | .signal .. => 1 | .halyard .. => 1 | .opa .. => 1 | .sysc .. => 1
  | .arrive _ _ _ _ r d => if r || d then 1 else 0
  | _ => 0

/-- The instance holds a DRAIN. -/
def Inst.drains (x : Inst) : Bool := x.effects.any fun e => match e.2.2 with | .arrive _ _ _ _ _ d => d | _ => false

/-- A wait whose end may still change what the instance commits or performs; a load's token alone has no part in the commit
conditions but through the write entries (R193). -/
def Wait.pends : Wait → Bool
  | .load i .. => match i with | .vdecl .. => true | _ => false
  | .window .. => false
  | _ => true

/-- The commit conditions, but for the exit and the outstanding count. -/
def Inst.ready (x : Inst) (cycle : Nat) : Bool :=
  ((List.range 8).all fun j => writeEntry x.header j == 63 || x.full (entryT j) cycle)
    && ((List.range x.ins.length).all fun i => (x.shapeAt i).lsid.isNone || x.hasFired i)
    && !(x.waits.any (·.2.pends))

/-- The commit conditions, but for those on the outstanding count. -/
def Inst.complete (x : Inst) (cycle : Nat) : Bool :=
  x.ready cycle && (!x.lastPass || x.exit.any fun e => e.due ≤ cycle)

/-- The conditions on the outstanding count (R143, R214, R285). -/
def Inst.countOk (x : Inst) (outst : Nat) : Bool :=
  (!(x.drains || (x.exit.any fun e => e.kind == .efence)) || outst == 0)
    && outst + (x.effects.map fun e => e.2.2.count).sum ≤ 4096

/-- An instance without the stores that its commit refuses: those over a barrier object that is armed, or that the instance arms before (R355). -/
def State.unrefused (s : State) (core : Nat) (x : Inst) : Inst :=
  { x with effects := x.effects.filter fun e => match e.2.2 with
    | .store bs => !bs.any fun b => (s.armedAt core b.addr).isSome || x.effects.any fun d => d.1 < e.1 && (match d.2.2 with
        | .binit a .. => a == b.addr / 32 * 32
        | _ => false)
    | _ => true }

/-- An instance with the bytes that its BINITs write as stores (R282). -/
def State.withBinits (s : State) (core : Nat) (x : Inst) : Inst :=
  { x with effects := x.effects.map fun e => (e.1, e.2.1, match e.2.2 with
    | .binit a expa pcore paddr sstep => .store (s.binitBytes core a expa pcore paddr sstep)
    | f => f) }

/-- DEPTH as the instance's commit leaves it (R207). -/
def State.depthAfter (s : State) (core rid : Nat) (x : Inst) : Nat :=
  (s.overlay core (s.withBinits core (s.unrefused core x)) 16 (rowBase rid + 0x48) (s.byte (rowKey core rid 0x48), false)).1.toNat % 8

/-- The commit-class checks made when the other conditions are met: instruction and code (R207, R297, R341). -/
def State.commitChecks (s : State) (core rid : Nat) (x : Inst) : Option (Nat × Nat) :=
  let depth := s.depthAfter core rid x
  let loops := match x.exit with
    | some e => match e.kind with
      | .loop => if e.a / 2 ^ 32 ≠ 0 then some (e.index, 0x0203)
          else if e.a ≠ 0 ∧ 4 ≤ depth then some (e.index, 0x0204)
          else if !validBlock e.target then some (e.index, 0x0201) else none
      | .endl => if depth = 0 then some (e.index, 0x0204) else none
      | .brkl => if depth = 0 then some (e.index, 0x0204)
          else if !validBlock e.target then some (e.index, 0x0201) else none
      | _ => none
    | none => none
  let waiting := x.effects.filterMap fun e => match e.2.2 with | .fork _ _ _ _ _ w => if w then some e.2.1 else none | _ => none
  match loops with
  | some c => some c
  | none => match waiting.getLast? with
    | some i => if (x.exit.any fun e => e.kind == .br) && waiting.length == 1 then none else some (i, 0x0207)
    | none => none

/-- The checks that tokens delivered in this cycle raise (R189, R190): code, index, whether a write entry; an instruction's comes before a write
entry's (log 151). Tokens to exits are discarded in a
pass before the last (R193). -/
def Inst.tokenCheck (x : Inst) (cycle : Nat) : Option (Nat × Nat × Bool) :=
  let slots := ((List.range x.ins.length).filter fun i => x.lastPass || !(x.shapeAt i).isExit).flatMap fun i =>
    [(slotA i, i, false), (slotB i, i, false), (slotC i, i, false), (slotP i, i, false)]
  let entries := (List.range 8).map fun j => (entryT j, j, true)
  (slots ++ entries).findSome? fun t =>
    let new := x.toks.any fun k => k.dest == t.1 && k.due == cycle
    if !new then none
    else match meetAll ((x.delivered t.1 cycle).map (·.val)) with
      | .error c => some (c, t.2.1, t.2.2)
      | .ok v =>
        if t.2.2 && v.isVec && 24 ≤ writeEntry x.header t.2.1 % 64 && writeEntry x.header t.2.1 % 64 < 32 then
          some (0x0104, t.2.1, true)
        else none

/-- The last exit of the last pass has fired and none is taken: its index (R193). -/
def Inst.noExit (x : Inst) : Option Nat :=
  let exits := (List.range x.ins.length).filter fun i => (x.shapeAt i).isExit
  if x.lastPass && x.exit.isNone && exits.all (fun i => x.fired.any fun f => f.1 == i) then
    (x.fired.filter fun f => exits.contains f.1).getLast?.map (·.1)
  else none

/-- No instruction can fire, none is in flight, no read is pending and no wait of its own goes on (R193). -/
def Inst.stuck (x : Inst) (cycle : Nat) : Bool :=
  x.reads.isEmpty && !((List.range x.ins.length).any fun i => x.eligible i (cycle + 1))
    && !(x.toks.any fun k => cycle < k.due) && !(x.exit.any fun e => cycle < e.due) && x.busy.all fun b => b.2 ≤ cycle
    && !(x.waits.any fun w => (match w.2 with
          | .search .. => x.viewsKnown w.1
          | _ => x.lowerFired ((x.shapeAt w.1).lsid.getD 0)))

/-- An instance that can make no progress (R193): a commit condition other than those on the outstanding count, on which it may wait, is
unmet. -/
def State.stalled (s : State) (core rid : Nat) : Bool :=
  (s.slot? core rid).any fun l =>
    l.phase == .running && l.inst.start ≤ s.cycle && l.inst.failed.isNone && l.inst.stuck s.cycle && !l.inst.complete s.cycle
      && !(l.inst.noExit.isSome && l.inst.ready s.cycle)

/-- Serve what waits for lower LSIDs (R195): once every one of them has fired and, of those with effects that it sees, been performed. -/
def serveWait (core rid : Nat) (w : Nat × Wait) : Act :=
  .get fun s => match s.slot? core rid with
    | none => .done
    | some l =>
      let sh := l.inst.shapeAt w.1
      .when (l.inst.lowerFired (sh.lsid.getD 0)) (match w.2 with
        | .load i a b pred => match i with
          | .bph .. => phaseNow core rid w.1 sh a
          | .vdecl _ slot _ => vdeclNow core rid w.1 sh slot.toNat a.num
          | _ => startLoad core rid w.1 i a b pred
        | .atomic op => atomicNow core rid w.1 sh op
        | .order dst op => orderNow core rid w.1 sh dst op
        | .queue fn d data pred none => queueArrive core rid w.1 sh fn d data pred
        | .tidset e a due => tidsetNow core rid w.1 sh e a due
        | _ => .done)

/-- The waits of an instance, in LSID order. -/
def Inst.waitOrder (x : Inst) : List (Nat × Wait) :=
  (List.range 16).flatMap fun l => x.waits.filter fun w => (x.shapeAt w.1).lsid == some l

/-- A wait whose instruction is in flight (R338): its access is under way at a memory or a bank unit. -/
def Wait.inFlight : Wait → Bool
  | .window .. => true
  | .queue _ _ _ _ t => t.isSome
  | .tidset _ _ d => d.isSome
  | _ => false

/-- The last cycle in which something but the failed instruction itself is in flight (R338). -/
def Inst.flightEnd (x : Inst) (k : Check) (cycle : Nat) : Nat :=
  let other (i : Nat) : Bool := !(k.tvalid && !k.twe && i == k.tidx)
  (((x.toks.filter fun t => other t.from?).map (·.due)) ++ (x.busy.filter fun b => other b.1).map (·.2)).foldl max (max k.cycle cycle)

/-- The trap boundary of a failed instance (R338): after the check, for the fire class after what is in flight has delivered. -/
def placeTrap (core rid : Nat) (x : Inst) (k : Check) : Act :=
  .get fun s =>
    if k.commit then setPhase core rid (.trap (k.cycle + 1))
    else .when (!(x.waits.any (·.2.inFlight)))
      (setPhase core rid (.trap (x.flightEnd k s.cycle + 1)))

/-- The end of a cycle in an instance: waits are served, tokens judged, then the trap boundary, or the commit, is placed. -/
def checkRow (core rid : Nat) : Act :=
  .get fun s =>
    match s.slot? core rid with
    | none => .done
    | some l =>
      if l.phase ≠ .running ∨ s.cycle < l.inst.start then .done
      else .all [
        .each (l.inst.waitOrder.filter fun w => l.inst.failed.isNone || w.2.inFlight) fun w => serveWait core rid w,
        .get fun s => match s.slot? core rid with
          | none => .done
          | some l =>
            match l.inst.tokenCheck s.cycle with
            | some (code, i, twe) =>
              let k : Check := { code := code, tvalid := true, tidx := i, twe := twe, cycle := s.cycle, commit := false }
              if twe then .when (l.inst.failed.all (·.commit)) (modInst core rid fun x => { x with failed := some k })
              else raiseCheck core rid k
            | none => match l.inst.noExit with
              | some i => .when (l.inst.failed.isNone && l.inst.ready s.cycle && l.inst.countOk ((s.row? core rid).elim 0 (·.outst)))
                  (checkAt core rid i 0x0107 true)
              | none => .done,
        .get fun s => match s.slot? core rid with
          | none => .done
          | some l =>
            match l.inst.failed with
            | some k => placeTrap core rid l.inst k
            | none =>
              if l.inst.complete s.cycle && l.inst.countOk ((s.row? core rid).elim 0 (·.outst)) then
                match s.commitChecks core rid l.inst with
                | some (i, code) => .all [checkAt core rid i code true, setPhase core rid (.trap (s.cycle + 1))]
                | none => setPhase core rid (.commit (s.cycle + 2))
              else .done]

/-- `BLOCK_STALL` (R193): the BlockStall check is raised. -/
def execBlockStall (core rid : Nat) (s : State) : Host.Outcome State Fault Refusal :=
  stepWith (.get fun s => .when (s.stalled core rid) (.all [
    raiseCheck core rid { code := 0x0108, tvalid := false, tidx := 0, twe := false, cycle := s.cycle, commit := true },
    setPhase core rid (.trap (s.cycle + 1))])) s

/-! ### Releases of a discarded instance (R339) -/

/-- A claimed row is released. -/
def sendRelease (core : Nat) (r : Nat × Nat) : Act :=
  send { src := core, dst := r.1, org := Origin.device core, pay := .release r.2 }

/-- Release what an uncommitted effect holds. -/
def releaseEffect (core rid : Nat) : Effect → Act
  | .halyard e => freeEntry core e
  | .opa c => match c.entry with | some e => freeEntry core e | none => .done
  | .vdecl _ _ v => match v with
    | some v => modCore core fun c => { c with viewRsv := c.viewRsv.filter (· != v) }
    | none => .done
  | .fork t _ _ _ cell _ => .all [poolFree core cell, .when (t.1 != 256) (sendRelease core t)]
  | .sysc i _ _ _ _ _ => .get fun s => modFunc (s.tenant core rid) fun x => { x with calls := x.calls.filter fun c => c.index != i }
  | _ => .done

/-- The claims and the join cell of an exit that has no effect are released (R215, R339). -/
def releaseExit (core : Nat) (e : Exit) : Act :=
  .all [.each e.tasks (sendRelease core), .when (e.cell != 0) (poolFree core e.cell)]

/-- Release everything that a discarded instance holds. -/
def discard (core rid : Nat) (x : Inst) : Act :=
  .all [.each x.effects fun e => releaseEffect core rid e.2.2,
        .each x.waits fun w => match w.2 with | .search _ found _ => .each found (sendRelease core) | _ => .done,
        x.exit.elim .done (releaseExit core)]

/-! ### The boundary (R72) -/

/-- Perform things held for a row: stores, atomics and requests in arrival order, then the conditions among themselves (R74, R344). -/
def performAll (core rid : Nat) (held : List Held) : Act :=
  .all [.each held fun h => match h with
          | .store org bs fin => performStore core org bs (finish core org fin)
          | .atomic org op fin =>
            .get fun s => performAtomic core org op (match fin with
                | .acc id => (s.acc? id).map fun a => (a.va, a.pa)
                | _ => none) fun old c =>
              finish core org fin (if old.isSome then 4 else 0) c
          | .bins org seq g ops => .all [performBins core org seq g ops, drainPart core seq g (-1) 0]
          | .request run stop redir => actRequest core rid run stop redir
          | .cond _ => .done,
        .each held fun h => match h with
          | .cond c => recordCond core rid c
          | _ => .done]

/-- Perform what is held for a row. -/
def performHeld (core rid : Nat) : Act :=
  .get fun s => match s.row? core rid with
    | none => .done
    | some r => .all [modRow core rid fun r => { r with held := [], early := 0 }, performAll core rid r.held]

/-- Steps 4 and 5: a pending STOPREQ, then a pending REDIR. -/
def pendingRequests (core rid : Nat) : Act :=
  .get fun s =>
    let st := s.rowLe core rid 0 8
    .all [.when (bit st 11) (.all [putBits (rowKey core rid 0) 8 11 11 0, .get fun s =>
            let c := s.code core rid
            .all [.when (c == 3) (bumpWaiters core rid false), .when (c != 0) (setCode core rid 6)]]),
          .when (bit st 12) (.all [putBits (rowKey core rid 0) 8 12 12 0, redirClosed core rid])]

/-- Closing starts; its two cycles begin with the boundary's. -/
def startClosing (core rid : Nat) : Act := .get fun s => setPhase core rid (.closing (s.cycle + 1))

/-- Close an open row as ready: rotation, quantum end or a tenant stop. -/
def rotate (core rid : Nat) : Act := .all [makeReady core rid, startClosing core rid]

/-- First cycle of the next instance's header reads after this boundary (R72, R340). -/
def State.nextStart (s : State) (core rid : Nat) : Nat := s.cycle + (if (s.row? core rid).any (·.trapBit) then 4 else 1)

/-- Step 6, and what follows: a row no longer open closes; one that a stop, a mark or the quantum closes rotates; else its
next instance starts. -/
def afterBoundary (core rid : Nat) : Act :=
  .all [modSlot core rid fun l => { l with boundaries := l.boundaries + 1 },
        .get fun s => match s.slot? core rid with
          | none => .done
          | some l =>
            if s.code core rid ≠ 2 then startClosing core rid
            else if (s.coreSt core).stopping.isSome || l.mark.isSome then rotate core rid
            else if 64 ≤ l.boundaries then
              .all [setPhase core rid (.boundary s.cycle), upd fun s => { s with work := .op (.quantumEnd core rid) :: s.work }]
            else beginInst core rid (s.nextStart core rid)]

/-- `QUANTUM_END` (R99): the row closes for rotation if some ready row of its bank could take its slot; else its count
restarts and its next instance starts. -/
def execQuantumEnd (core rid : Nat) (s : State) : Host.Outcome State Fault Refusal :=
  stepWith (.get fun s => match s.slot? core rid with
    | none => .done
    | some l =>
      .when (l.phase == .boundary s.cycle && 64 ≤ l.boundaries)
        (if (s.readyRows core (bankOf rid)).any fun r =>
              s.couldOpen core r ((s.bankSlots core (bankOf rid)).filter fun x => x.rid != rid) then
           rotate core rid
         else .all [modSlot core rid fun l => { l with boundaries := 0 }, beginInst core rid (s.nextStart core rid)])) s

/-- A row that waits. -/
def waitOn (core rid k obj wph : Nat) : Act := .all [setWait core rid k obj wph, setCode core rid 3]

/-- The condition of a taken wait exit is unmet in the last cycle of its commit: the row will wait on `obj` from its boundary on (R209). -/
def willWait (core rid k obj wph : Nat) : Act :=
  modInst core rid fun x => { x with exit := x.exit.map fun e => { e with wait := some (k, obj, wph) } }

/-- WAITE at its line (R287): the row's arrival is counted, or it becomes the holder, or it queues and is one of WAITERS; a
poisoned line takes no arrival (R375). -/
def waitLine (core rid l : Nat) : Act :=
  .get fun s =>
    let cl := clusterOf core
    let key := lineKey cl l
    let w := s.le key 4
    let org : Origin := { Origin.device core with rid := rid, isExit := true, gang := s.gangId core rid, func := s.tenant core rid }
    let queue (obj : Nat) : Act := .all [willWait core rid 2 obj 0, .get fun s => putLe (key + 4) 2 (s.le (key + 4) 2 + 1)]
    if let some i := (List.range 6).find? fun i => s.poisoned (key + 4 * i) then
      deliverCond core rid (condOf org 0x0804 core (0x01400000 + 64 * l + 4 * i))
    else if !s.lineOwned cl l core rid true then deliverCond core rid (condOf org 0x0405 core (lineInfo cl l))
    else match bits w 31 30 with
      | 1 => .all [lineArrive org cl l, .when (s.le (key + 6) 2 + 1 < w % 65536) (queue l)]
      | 2 => if !bit w 27 then .all [putBits key 4 27 27 1, putLe (key + 8) 4 (core * 2 ^ 24 + rid)]
             else .all [putLe (key + 0x14) 2 (s.le (key + 0x14) 2 + 1), queue (l + 64 * s.le (key + 0x14) 2)]
      | 3 => .when (!bit w 28) (queue l)
      | _ => deliverCond core rid (condOf org 0x0405 core (lineInfo cl l))

/-- A taken wait exit's condition at the end of the last cycle of its commit (R209). -/
def judgeWait (core rid : Nat) (e : Exit) : Act :=
  .get fun s => match e.kind with
    | .waitb => .when (s.loc core e.a 1 % 2 != e.b % 2) (willWait core rid 1 (e.a % 2 ^ 21) (e.b % 2))
    | .waite => waitLine core rid (e.a % 64)
    | .waitqr => .when (s.qDepth core e.a ≤ s.qCount core e.a) (willWait core rid 3 (e.a % 2 ^ 21) 0)
    | .waitqd => .when (s.qCount core e.a == 0) (willWait core rid 4 (e.a % 2 ^ 21) 0)
    | _ => .done

/-- A trap takes the place of a wait exit (R345): a row that has queued on an event line leaves it, and a change of what it would have waited on
is of no further use. -/
def dropWait (core rid : Nat) (e : Exit) : Act :=
  .get fun s => .all [
    match e.wait with
    | some (2, obj, _) =>
      let key := lineKey (clusterOf core) (obj % 64) + 4
      .when (!(s.row? core rid).any (·.wake)) (putLe key 2 (s.le key 2 - 1))
    | _ => .done,
    modRow core rid fun r => { r with wake := false }]

/-- A fork's join cell. -/
def State.forkAt (s : State) (core cell : Nat) : Option ForkSt := s.forks.find? fun f => f.core == core && f.cell == cell

/-- First task and count of the node at a depth on the way to task `i`. -/
def nodeAt : Nat → Nat → Nat → Nat → Nat × Nat
  | 0, first, k, _ => (first, k)
  | d + 1, first, k, i =>
    let kl := (k + 1) / 2
    if i < first + kl then nodeAt d first kl i else nodeAt d (first + kl) (k - kl) i

/-- The core of the merge unit at which the chain of task `i` takes its first step (R299, R333): that of the first task of its leaf's parent, or
of the join cell where the leaf is the root. -/
def State.mergeUnit (s : State) (jcore jcell k i : Nat) : Nat :=
  match leafDepth 9 k i, s.forkAt jcore jcell with
  | d + 1, some fk => (fk.tasks.getD (nodeAt d 0 k i).1 (jcore, 0, 0)).1
  | _, _ => jcore

/-- Loop stack entry `e` of a row (R56). -/
def loopOff (e : Nat) : Nat := 0x18 + 12 * e

/-- Steps 1 and 2 of a boundary: PC and the exit's effect on the row (R62, R206 to R217). -/
def exitEffect (core rid : Nat) (x : Inst) (e : Exit) : Act :=
  .get fun s =>
    let ft := fallThrough x.pc x.header
    let depth := s.rowLe core rid 0x48 1 % 8
    let top := loopOff (depth - 1)
    let go (pc : Nat) : Act := setPc core rid (pc / 16 * 16)
    let pop : Act := .all [putRow core rid top 8 0, putRow core rid (top + 8) 4 0, putRow core rid 0x48 1 (depth - 1)]
    match e.kind with
    | .br =>
      let cell := x.effects.findSome? fun f => match f.2.2 with | .fork _ _ _ _ cell true => some cell | _ => none
      .all [go e.target, match cell with | some c => waitOn core rid 5 c 0 | none => .done]
    | .brx => go e.target
    | .call => .all [putRow core rid (0x80 + 56) 8 ft, unpoison (rowKey core rid (0x80 + 56)) 8, go e.target]
    | .loop =>
      if e.a = 0 then go ft
      else .all [putRow core rid (loopOff depth) 4 e.target, putRow core rid (loopOff depth + 4) 4 ft,
                 putRow core rid (loopOff depth + 8) 4 e.a, putRow core rid 0x48 1 (depth + 1), go e.target]
    | .endl =>
      let n := (s.rowLe core rid (top + 8) 4 + 2 ^ 32 - 1) % 2 ^ 32
      if n ≠ 0 then .all [putRow core rid (top + 8) 4 n, go (s.rowLe core rid top 4)]
      else .all [go (s.rowLe core rid (top + 4) 4), pop]
    | .brkl => .all [pop, go e.target]
    | .waitb | .waite | .waitqr | .waitqd => .all [go e.target, match e.wait with
        | some (k, obj, wph) => waitOn core rid k obj wph
        | none => .done]
    | .yield => .all [go e.target, makeReady core rid]
    | .halt => .all [go e.target, setCode core rid 4]
    | .efence => go e.target
    | .trap _ => .done
    | .splice =>
      let lk := s.link core rid
      let k := bits lk 55 47
      let i := bits lk 46 39
      .all [go x.pc,
            let unit := s.mergeUnit (bits lk 63 56) (lk % 2 ^ 21) k i
            send { src := core, dst := unit, org := { Origin.device core with func := s.tenant core rid },
                   pay := .merge (bits lk 63 56) (lk % 2 ^ 21) i (leafDepth 9 k i), waits := if unit = core then 1 else 0 },
            setCode core rid 0, putRow core rid 0x70 8 0, modRow core rid fun r => { r with redir := [], view := 0 }]
    | .forkr =>
      if e.a = 0 then go e.target
      else .all [startFork core rid e.cell e.c e.tasks true fun i => taskRange 9 0 e.a e.tasks.length i,
                 go e.target, waitOn core rid 5 e.cell 0]

/-- The trap at a boundary, with the bit of R342. -/
def boundaryTrap (core rid code spc : Nat) (p : Precise) (double : Bool) : Act :=
  .all [.when (code == 0x0804 && p.tvalid) (.get fun s => poisonConsumed core (s.tenant core rid) 0),
        takeTrap core rid code spc p double,
        .get fun s => modRow core rid fun r => { r with trapBit := s.code core rid == 2, rep := 0 }]

/-- The pending condition of ERRWORD is raised as a trap in place of an exit (R345). -/
def raisePending (core rid spc : Nat) : Act :=
  .get fun s =>
    let code := bits (s.errword core rid) 63 48
    .all [putBits (rowKey core rid 0x58) 8 63 48 0,
          boundaryTrap core rid code spc { tvalid := false, tidx := 0, tpass := 0, twe := false } false]

/-- Free the view instance of a task of a fork. -/
def freeTaskView (fk : ForkSt) (i : Nat) : Act :=
  .get fun s => match s.forkAt fk.core fk.cell with
    | none => .done
    | some f => match f.tasks[i]? with
      | none => .done
      | some t => .when (t.2.2 != 0) (.all [poolFree t.1 t.2.2,
          upd fun s => { s with forks := s.forks.map fun g =>
            if g.core == fk.core && g.cell == fk.cell then { g with tasks := g.tasks.set i (t.1, t.2.1, 0) } else g }])

/-- The end of a fork: its instances and join cell return to the view pools, with JSTATE 0, and the view entries
that no other fork uses to VSTATE 1 (R296, R334, R362). -/
def endFork (fk : ForkSt) : Act :=
  .all [.each (List.range fk.tasks.length) (freeTaskView fk),
        putLoc fk.core (fk.cell + 7) 1 0, poolFree fk.core fk.cell,
        upd fun s => { s with forks := s.forks.filter fun g => !(g.core == fk.core && g.cell == fk.cell) },
        .get fun s => .each (fk.slots.filter fun v => !s.forks.any fun g => g.core == fk.core && g.slots.contains v) fun v =>
          putBits (viewKey fk.core v + 8) 8 63 62 1]

/-- The task of a fork ends without a merge: its count falls, its instance is freed; at 0 the fork ends (R361, R362). -/
def dropTask (fk : ForkSt) (i : Nat) : Act :=
  .get fun s =>
    let n := s.loc fk.core fk.cell 2 - 1
    .all [putLoc fk.core fk.cell 2 n, freeTaskView fk i, .when (n == 0) (endFork fk)]

/-- A join cell is poisoned by the failure of a task (R360, R361). -/
def joinPoison (fk : ForkSt) (i code failCore : Nat) : Act :=
  .get fun s =>
    let first := s.loc fk.core (fk.cell + 7) 1 == 1
    let pr := fk.parent
    let waits := s.code fk.core pr == 3 && s.waitk fk.core pr == 5 && s.waitobj fk.core pr == fk.cell
    .all [.when first (putLoc fk.core (fk.cell + 7) 1 2),
          .when (first && waits) (
            let pc := s.pc fk.core pr
            let e := s.errword fk.core pr
            .all [putRow fk.core pr 0x64 4 pc, putRow fk.core pr 0x68 2 code,
                  putRow fk.core pr 0x58 8 (bits e 47 46 * 2 ^ 46 + failCore % 256 * 2 ^ 34 + i % 256 * 2 ^ 13
                    + bits e 11 1 * 2),
                  clearWait fk.core pr,
                  if s.trappc fk.core pr ≠ 0 then
                    .all [setPc fk.core pr (s.trappc fk.core pr), makeReady fk.core pr,
                          modRow fk.core pr fun r => { r with trapBit := true }]
                  else .all [setCode fk.core pr 5, reportTrap fk.core pr code]])]

/-- A task that has become trapped poisons its fork and is counted out of it (R360, R361); its link becomes 0. -/
def trappedTask (core rid : Nat) : Act :=
  .get fun s =>
    let lk := s.link core rid
    .when (s.code core rid == 5 && lk != 0) (match s.forkAt (bits lk 63 56) (lk % 2 ^ 21) with
      | some fk => .all [joinPoison fk (bits lk 46 39) (s.rowLe core rid 0x68 2) core, dropTask fk (bits lk 46 39),
                         putRow core rid 0x70 8 0, modRow core rid fun r => { r with redir := [], view := 0 }]
      | none => putRow core rid 0x70 8 0)

/-- A parent that R361 has trapped may itself be a task of another fork: one more level. -/
def trappedChain : Nat → Nat → Nat → Act
  | 0, _, _ => .done
  | n + 1, core, rid => .get fun s =>
      let lk := s.link core rid
      .all [trappedTask core rid,
            .when (s.code core rid == 5 && lk != 0) (match s.forkAt (bits lk 63 56) (lk % 2 ^ 21) with
              | some fk => trappedChain n fk.core fk.parent
              | none => .done)]

/-- The boundary that follows a commit (R72). Where a pending condition replaces the effect of a FORKR, its claims and join cell are released, as
those of a discarded instance are (log 153). -/
def boundary (core rid : Nat) (x : Inst) : Act :=
  .get fun s => match x.exit with
    | none => .done
    | some e =>
      let held := performHeld core rid
      let canRaise := e.kind == .waitb || e.kind == .efence || x.drains || x.drained
      let raise := canRaise && bits ((held.run s).errword core rid) 63 48 != 0
      .all [modRow core rid fun r => { r with trapBit := false, rep := 0 },
            if raise then .all [dropWait core rid e, releaseExit core e, held, raisePending core rid x.pc]
            else match e.kind with
              | .trap n => .all [boundaryTrap core rid (0x8000 + n) x.pc
                  { tvalid := true, tidx := e.index, tpass := if headerRep x.header then x.pass else 0, twe := false } false, held]
              | _ => .all [exitEffect core rid x e, held],
            modInst core rid fun x => { x with exit := x.exit.map fun e => { e with wait := none } },
            trappedChain 64 core rid, pendingRequests core rid, afterBoundary core rid]

/-! ### The commit (R71) -/

/-- The bytes that write entry `j` writes. -/
def Inst.entryBytes (x : Inst) (rid cycle j : Nat) : List PByte :=
  let m := passReg (writeEntry x.header j % 64) x.pass (headerStride x.header)
  let v := x.value (entryT j) cycle
  if m < 24 then
    (List.range 32).flatMap fun i => match laneAt v.lanes i with
      | some (w, p) => pbytes (rowBase rid + 0x100 + 128 * m + 4 * i) 4 w.toNat p
      | none => []
  else match v with
    | .sca (some (w, p)) => pbytes (rowBase rid + 0x80 + 8 * (m - 24)) 8 w.toNat p
    | _ => []

/-- The commit of an instance as one event: header writes, then stores and dispatches in LSID order, then flags. -/
def commitInst (core rid : Nat) (x : Inst) : Act :=
  .get fun s =>
    .all [writeLocal core (((List.range 8).filter fun j => writeEntry x.header j != 63).flatMap fun j =>
            x.entryBytes rid s.cycle j),
          .each x.effects.zipIdx fun e => commitEffect core rid e.1.1 (x.laneOf e.2 e.1.2.1) e.1.2.2,
          commitFlags core rid x.flags]

/-- The fetch of the next block (R72, R113): in the last cycle of a commit and before what it stores, at the PC that its exit gives. -/
def fetchNext (core rid : Nat) (x : Inst) (e : Exit) : Act :=
  .get fun s => modSlot core rid fun l =>
    { l with next := some (s.fetchBlock core ((Act.run (.all [commitInst core rid x, exitEffect core rid x e]) s).pc core rid)) }

/-- `BLOCK_COMMIT` (R71, R72): at the end of the commit's last cycle the instance commits; a pass before the last is followed by
the next pass, the last by the boundary, in the next cycle. -/
def execBlockCommit (core rid : Nat) (s : State) : Host.Outcome State Fault Refusal :=
  stepWith (.get fun s => match s.slot? core rid with
    | none => .done
    | some l =>
      match l.phase with
      | .commit last =>
        .when (last == s.cycle) (.all [
          match l.inst.exit with
          | some e => fetchNext core rid l.inst e
          | none => .done,
          commitInst core rid l.inst,
          if l.inst.lastPass then setPhase core rid (.boundary (s.cycle + 1))
          else modSlot core rid fun l =>
            let y := { Inst.blank l.inst.pc l.inst.header l.inst.ins with
              pass := l.inst.pass + 1, start := s.cycle + 2, rm := l.inst.rm, key := l.inst.key, cseed := l.inst.cseed,
              drained := l.inst.drained || l.inst.drains }
            { l with inst := y, phase := .running }])
      | .boundary at' => .when (at' == s.cycle && l.boundaries < 64) (boundary core rid l.inst)
      | _ => .done) s

/-! ### Traps, forced closes and closings -/

/-- `PRECISE_TRAP` (R340): the trap boundary of a failed instance. Consumed poison in a superstep gang starts a rollback
instead (R374); an error of the instruction store, which no token carries, takes its trap there too (log 159). -/
def execPreciseTrap (core rid : Nat) (s : State) : Host.Outcome State Fault Refusal :=
  stepWith (.get fun s => match s.slot? core rid with
    | none => .done
    | some l =>
      match l.phase, l.inst.failed with
      | .trap at', some k =>
        if at' ≠ s.cycle then .done
        else if k.code = 0x0804 ∧ k.tvalid = true ∧ s.rollsBack (s.gangId core rid) then
          .all [discard core rid l.inst, startClosing core rid, poisonConsumed core (s.tenant core rid) 0,
                startRollback (s.gangId core rid)]
        else
          let double := (s.row? core rid).any (·.trapBit)
          .all [discard core rid l.inst,
                boundaryTrap core rid k.code l.inst.pc
                  { tvalid := k.tvalid, tidx := k.tidx, tpass := if headerRep l.inst.header then l.inst.pass else 0,
                    twe := k.twe } double,
                performHeld core rid, trappedChain 64 core rid, pendingRequests core rid, afterBoundary core rid]
      | _, _ => .done) s

/-- Close a row by force (R66, R353): its instance is discarded and steps 3 to 5 are performed. An instance that has
performed an atomic commits first (R66). -/
def forceClose (core rid : Nat) : Act :=
  .get fun s => match s.slot? core rid with
    | none => .done
    | some l =>
      let may := match l.phase with | .opening _ => true | .running => true | .trap _ => true | _ => false
      .when (may && !l.inst.atomicDone) (.all [
        discard core rid l.inst, modRow core rid fun r => { r with rep := if headerRep l.inst.header then l.inst.pass else 0 },
        performHeld core rid, pendingRequests core rid,
        .get fun s => .when (s.code core rid == 2) (makeReady core rid), startClosing core rid])

/-- `FORCED_CLOSE` (R353). -/
def execForcedClose (core rid : Nat) (s : State) : Host.Outcome State Fault Refusal := stepWith (forceClose core rid) s

/-- Perform what is held for a row that holds nothing back any more: not open, not claimed (R74); of a row that is claimed and no longer open,
what was held before the claim (R216). -/
def settleHeld (core rid : Nat) : Act :=
  .get fun s =>
    if !s.holds core rid then performHeld core rid
    else match s.row? core rid with
      | some r => .when (!s.isOpen core rid && r.early != 0) (.all [
          modRow core rid fun r => { r with held := r.held.drop r.early, early := 0 }, performAll core rid (r.held.take r.early)])
      | none => .done

/-- `ROW_CLOSE_COMPLETE` (R65): the slot becomes free, and what arrived during the closing is performed (R74). -/
def execRowCloseComplete (core rid : Nat) (s : State) : Host.Outcome State Fault Refusal :=
  stepWith (.get fun s => match s.slot? core rid with
    | none => .done
    | some l => match l.phase with
      | .closing last => .when (last < s.cycle) (.all [
          upd fun s => { s with slots := s.slots.filter fun x => !(x.core == core && x.rid == rid) }, settleHeld core rid])
      | _ => .done) s

/-- `WAIT_WAKE` (R209): a row whose condition has held becomes ready. -/
def execWaitWake (core rid : Nat) (s : State) : Host.Outcome State Fault Refusal :=
  stepWith (.get fun s =>
    let k := s.waitk core rid
    let flag := (s.row? core rid).any (·.wake)
    .when (s.code core rid == 3 && (flag || ((k == 1 || k == 3 || k == 4) && s.waitMet core rid)))
      (.all [clearWait core rid, makeReady core rid])) s

/-- `RUNREQ` (R62). -/
def execRunreq (core rid : Nat) (s : State) : Host.Outcome State Fault Refusal := stepWith (request core rid true false false) s

/-- `STOPREQ` (R62). -/
def execStopreq (core rid : Nat) (s : State) : Host.Outcome State Fault Refusal := stepWith (request core rid false true false) s

/-- `REDIR` (R62, R63). -/
def execRedir (core rid : Nat) (s : State) : Host.Outcome State Fault Refusal := stepWith (request core rid false false true) s

end Sys2Proof.Machine
end

