-- ==== Sys2Proof/Machine/Opa.lean ====
section
/-!
DEFINITION. The matrix array and the plates (R250 to R271): capabilities, acceptance and its checks, ownership of tiles,
execution group by group with the watermark, drains with their histogram, spills and fills, and window stores (R111).
-/

namespace Sys2Proof.Machine

/-! ### Identifier images (R250, R251) -/

/-- The lane type of a type code; 13 and above do not occur in a well-formed image. -/
def typeOf (c : Nat) : LaneType :=
  ([.i32, .n32, .i16x2, .n16x2, .i8x4, .n8x4, .fp32, .bf16x2, .fp16x2, .e4m3x4, .e5m2x4, .e2m1x8, .dm8x4] : List LaneType).getD c .i32

def tidType (g : List Byte) : Nat := tidWord g 0 % 16
def tidRank (g : List Byte) : Nat := bits (tidWord g 0) 5 4 + 1
def tidSpace (g : List Byte) : Nat := bits (tidWord g 0) 7 6
def tidSmode (g : List Byte) : Nat := bits (tidWord g 0) 9 8
def tidHen (g : List Byte) : Bool := bit (tidWord g 0) 10
def tidBase (g : List Byte) : Nat := bits (tidWord g 0) 31 11
def tidSbase (g : List Byte) : Nat := tidWord g 1 % 2 ^ 21
def tidDim (g : List Byte) (d : Nat) : Nat := tidWord g (2 + d / 2) / 2 ^ (16 * (d % 2)) % 2 ^ 16
def tidStr (g : List Byte) (d : Nat) : Nat := tidWord g (3 + d)
def tidHbase (g : List Byte) : Nat := tidWord g 7 % 2 ^ 21

/-- Bits of an element. -/
def tidBits (g : List Byte) : Nat := (typeOf (tidType g)).width

/-- Bytes from element index 0 to the end of element `x`. -/
def tidSpan (g : List Byte) (x : Nat) : Nat := ((x + 1) * tidBits g + 7) / 8

/-- Bytes of local SRAM as the array reads them: 0 for those of guard granules (R377, log 115). -/
def State.operandBytes (s : State) (core a n : Nat) : List Byte :=
  if s.guard.isEmpty then s.bytes (Space.loc core a) n
  else (List.range n).map fun i => if s.guarded (Space.loc core (a + i)) then 0 else s.byte (Space.loc core (a + i))

/-- A value of local SRAM as the array reads it. -/
def State.operand (s : State) (core a n : Nat) : Nat := leNat (s.operandBytes core a n)

/-- Element `x` of an identifier in the local SRAM of a core (R251). -/
def State.elemAt (s : State) (core : Nat) (g : List Byte) (x : Nat) : Nat :=
  if tidBits g = 4 then s.operand core (tidBase g + x / 2) 1 / 16 ^ (x % 2) % 16
  else s.operand core (tidBase g + x * (tidBits g / 8)) (tidBits g / 8)

/-- The accumulator identifier of a command: the highest field of slot B (R253). -/
def OpaCmd.acc (c : OpaCmd) : List Byte := c.images.getLast?.getD []
def OpaCmd.img (c : OpaCmd) (n : Nat) : List Byte := c.images.getD n []

/-- The tile of a command (R256), and of an accumulator window address. -/
def OpaCmd.tile (c : OpaCmd) : Nat := bits (tidBase c.acc) 17 16

/-- Fields of slot B (R253). -/
def OpaCmd.k0 (c : OpaCmd) : Nat := bits c.b 47 32
def OpaCmd.kn (c : OpaCmd) : Nat := bits c.b 63 48
def OpaCmd.first (c : OpaCmd) : Nat := bits c.b 30 24
def OpaCmd.nrows (c : OpaCmd) : Nat := bits c.b 39 32 + 1

/-- Flags of a spill or fill (R269). -/
def OpaCmd.lossy (c : OpaCmd) : Bool := bit c.imm 0
def OpaCmd.mem (c : OpaCmd) : Bool := c.op == 0x77 && bit c.imm 1

/-- The command writes its tile (R111). -/
def OpaCmd.writes (c : OpaCmd) : Bool := c.op == 0x71 || c.op == 0x73 || c.op == 0x75 || (c.op == 0x77 && c.fill)

/-- The command works on the drain path (R260). -/
def OpaCmd.drains (c : OpaCmd) : Bool := c.op == 0x72 || c.op == 0x76 || (c.op == 0x77 && !c.fill)

/-- The pin commands. -/
def OpaCmd.pins (c : OpaCmd) : Bool := c.op == 0x74

/-! ### Ownership (R257, R258) -/

/-- STATE, TENANT, GANG and GEN of a tile. -/
def State.tileState (s : State) (core t : Nat) : Nat := bits (s.own core t) 63 62
def State.tileTenant (s : State) (core t : Nat) : Nat := bits (s.own core t) 55 46
def State.tileGang (s : State) (core t : Nat) : Nat := bits (s.own core t) 45 30
def State.tileGen (s : State) (core t : Nat) : Nat := s.own core t % 2 ^ 16

def setWmark (core t v : Nat) : Act := putBits (ownKey core t) 8 23 16 v

/-- QCNT of a tile (R257). -/
def State.qcnt (s : State) (core t : Nat) : Nat := bits (s.le (ownKey core t + 16) 8) 31 16
def setQcnt (core t v : Nat) : Act := putBits (ownKey core t + 16) 8 31 16 v

/-- A capability's CHK (R255). -/
def State.capCheck (s : State) (hi tenant : Nat) : Nat := Config.mac s.powerCycle [hi, tenant] % 2 ^ 32

/-- The capability of a mask and rights. -/
def State.mintCap (s : State) (core mask rights gen tenant : Nat) : Nat :=
  let hi := core % 256 * 2 ^ 24 + mask % 16 * 2 ^ 20 + rights % 16 * 2 ^ 16 + gen % 2 ^ 16
  hi * 2 ^ 32 + s.capCheck hi tenant

/-- Local address of a tile (R108). -/
def tileAddr (t : Nat) : Nat := 0x01200000 + 0x10000 * t

/-- Clear a tile to +0 (R258): the watermark rises by 16 a cycle from 0, in the passing of the cycles. -/
def clearTile (core t : Nat) : Act :=
  .all [wipe (Space.loc core (tileAddr t)) 0x10000,
        unpoison (Space.loc core (tileAddr t)) 0x10000, touch core ((List.range 8).map (tileAddr t + 8192 * ·)), setWmark core t 0,
        .get fun s => modCore core fun c => { c with clears := c.clears.filter (fun x => x.1 != t) ++ [(t, s.cycle)] }]

/-- A tile becomes free: GEN + 1, cleared. A change of ownership writes the entry, which repairs it (R375). -/
def freeTile (core t : Nat) : Act :=
  .all [.get fun s => putLe (ownKey core t) 8 (bits (s.own core t) 23 16 * 2 ^ 16 + (s.tileGen core t + 1) % 2 ^ 16),
        putLe (ownKey core t + 8) 8 0, unpoison (ownKey core t) 32, clearTile core t]

/-- A free tile becomes transient for a gang: GEN + 1 and its binding capability. -/
def bindTile (core t tenant gang : Nat) : Act :=
  .get fun s =>
    let gen := (s.tileGen core t + 1) % 2 ^ 16
    .all [putLe (ownKey core t) 8 (2 ^ 62 + tenant % 1024 * 2 ^ 46 + gang % 2 ^ 16 * 2 ^ 30 + bits (s.own core t) 23 16 * 2 ^ 16 + gen),
          putLe (ownKey core t + 8) 8 (s.mintCap core (2 ^ t) 0xF gen tenant), unpoison (ownKey core t) 32]

/-- A tile is freed, then bound to the gang on the core, if any. -/
def freeThenBind (core t : Nat) : Act :=
  .all [freeTile core t, .get fun s => match s.gangOn? core with
    | some g => bindTile core t g.func g.id
    | none => .done]

/-! ### Acceptance (R256) -/

/-- Element types, scale modes and their combinations (R262, R264, R266 to R268). -/
def OpaCmd.typesOk (c : OpaCmd) : Bool :=
  let ty (n : Nat) : Nat := tidType (c.img n)
  let sm (n : Nat) : Nat := tidSmode (c.img n)
  let noScale (n : Nat) : Bool := sm n == 0
  let e8 (n : Nat) : Bool := sm n == 0 || sm n == 2
  match c.op with
  | 0x71 =>
    let a := ty 0
    let b := ty 1
    let t := ty 2
    (((a == 9 || a == 10) && (b == 9 || b == 10) && t == 6 && e8 0 && e8 1)
      || (a == 11 && b == 11 && t == 6 && e8 0 && e8 1) || (a == 7 && b == 7 && t == 6 && e8 0 && e8 1)
      || (a == 12 && b == 12 && t == 6 && noScale 0 && noScale 1) || (a == 4 && b == 4 && t == 0 && noScale 0 && noScale 1))
  | 0x72 => ty 1 == 6 || ty 1 == 0
  | 0x73 => ty 0 == 6 || ty 0 == 0
  | 0x74 => ty 0 == 6
  | 0x75 => (ty 0 == 6 || ty 0 == 7) && (ty 1 == 6 || ty 1 == 7) && ty 2 == 6
  | 0x76 => (ty 0 == 6 || ty 0 == 7) && ty 1 == 6 && ty 2 == 6
  | _ => ty 0 == 6

/-- An accumulator identifier names a whole tile (R262, R266). -/
def accOk (g : List Byte) : Bool :=
  tidSpace g == 2 && tidRank g == 2 && tidDim g 0 == 128 && tidDim g 1 == 128 && tidBase g % 0x10000 == 0 && tidBase g < 0x40000

/-- The element index of a(i, k) (R262). -/
def tidA (g : List Byte) (i k : Nat) : Nat :=
  if tidRank g = 2 then i + tidStr g 1 * k else i % 64 + tidStr g 1 * (i / 64) + tidStr g 2 * k

/-- An operand of 128 elements in local SRAM (R267, R268). -/
def vecOk (g : List Byte) : Bool :=
  tidSpace g == 0 && tidRank g == 1 && tidDim g 0 == 128 && tidBase g + tidSpan g 127 ≤ 0x200000

/-- Bytes of a spill (R270). -/
def spillBytes (lossy : Bool) : Nat := if lossy then 32832 else 65600

/-- Spaces, ranks, extents, alignments and byte ranges, and KN, FIRST and NROWS (R251, R262 to R269). The length of a local fill's source is that of
the FORMAT which memory holds at acceptance (log 156). -/
def State.shapeOk (s : State) (core : Nat) (c : OpaCmd) : Bool :=
  let g (n : Nat) : List Byte := c.img n
  let last := c.k0 + c.kn
  let str (x : List Byte) (d : Nat) : Bool := (tidStr x d * tidBits x) % 512 == 0
  let scale (x : List Byte) : Bool := tidSmode x != 2 || tidSbase x + 128 * ((last - 1) / 32) + 128 ≤ 0x200000
  accOk c.acc && match c.op with
  | 0x71 =>
    1 ≤ c.kn && tidSpace (g 0) == 0 && tidBase (g 0) % 64 == 0 && str (g 0) 1 && scale (g 0) && scale (g 1)
      && ((tidRank (g 0) == 2 && tidDim (g 0) 0 == 128 && last ≤ tidDim (g 0) 1)
          || (tidRank (g 0) == 3 && tidDim (g 0) 0 == 64 && tidDim (g 0) 1 == 2 && last ≤ tidDim (g 0) 2 && str (g 0) 2))
      && tidBase (g 0) + tidSpan (g 0) (max (tidA (g 0) 127 (last - 1)) (tidA (g 0) 63 (last - 1))) ≤ 0x200000
      && tidSpace (g 1) == 1 && tidRank (g 1) == 2 && tidDim (g 1) 0 == 128 && last ≤ tidDim (g 1) 1 && tidBase (g 1) % 128 == 0
      && tidBase (g 1) + 128 * tidSpan (g 1) (last - 1) ≤ roundUp ((s.gangOn? core).elim 0 (·.opsram)) 0x4000
  | 0x72 =>
    c.first + c.nrows ≤ 128 && tidSpace (g 0) == 0 && 2 ≤ tidRank (g 0) && tidDim (g 0) 0 == 128 && c.nrows ≤ tidDim (g 0) 1
      && tidBase (g 0) % 64 == 0 && str (g 0) 1
      && tidBase (g 0) + tidSpan (g 0) (127 + tidStr (g 0) 1 * (c.nrows - 1)) ≤ 0x200000
      && (tidSmode (g 0) != 1 || tidSbase (g 0) + 4 ≤ 0x200000)
      && (tidSmode (g 0) != 2 || tidSbase (g 0) + 4 * (c.first + c.nrows) ≤ 0x200000)
      && (!tidHen (g 0) || tidHbase (g 0) + 128 ≤ 0x200000)
  | 0x75 => vecOk (g 0) && vecOk (g 1)
  | 0x76 => vecOk (g 0) && tidSpace (g 1) == 0 && tidRank (g 1) == 1 && 128 ≤ tidDim (g 1) 0 && tidBase (g 1) % 64 == 0
      && tidBase (g 1) + 512 ≤ 0x200000
  | 0x77 => c.c % 64 == 0 && (if c.mem then c.c < 2 ^ 48 else c.c + spillBytes (if c.fill then s.loc core (c.c + 0x20) 2 == 2 else c.lossy) ≤ 0x200000)
  | _ => true

/-- The right a command needs: bit of cap<51:48> (R253, R255). -/
def OpaCmd.right (c : OpaCmd) : Nat :=
  match c.op with | 0x71 => 48 | 0x73 => 48 | 0x72 => 49 | 0x74 => 51 | _ => 50

/-- Pin commands in arbiter order, from a tile that is pinned or not: whether a PLUNP finds it pinned (R266). -/
def unpins : Bool → List OpaEntry → Bool
  | _, [] => false
  | pinned, e :: es => if e.cmd.fill then pinned || unpins pinned es else unpins true es

/-- An accepted PLUNP of a pinned tile has already changed its GEN (R256, R266). -/
def State.unpinning (s : State) (core t : Nat) : Bool :=
  unpins (s.tileState core t == 2) ((s.coreSt core).opa.filter fun e => e.tile == t && e.cmd.op == 0x74)

/-- The checks at the arbiter, in order (R256): the code of the first that fails. -/
def State.opaCheck (s : State) (core : Nat) (c : OpaCmd) : Option Nat :=
  let t := c.tile
  let hi := c.cap / 2 ^ 32
  if c.poisoned then some 0x0804
  else if bits c.cap 63 56 ≠ core ∨ c.cap % 2 ^ 32 ≠ s.capCheck hi c.tenant then some 0x0503
  else if !bit c.cap (52 + t) || s.tileState core t == 0 then some 0x0503
  else if bits c.cap 47 32 ≠ s.tileGen core t ∨ s.tileTenant core t ≠ c.tenant ∨ s.unpinning core t then some 0x0503
  else if !bit c.cap c.right then some 0x0504
  else if !c.typesOk then some 0x0505
  else if !s.shapeOk core c then some 0x0506
  else if c.bar % 32 ≠ 0 then some 0x0507
  else none

/-- AINFO of a command: OP and tile (R348). -/
def OpaCmd.info (c : OpaCmd) (t : Nat) : Nat := c.op + 128 * t

/-- A fresh queue entry. -/
def OpaEntry.fresh (seq cycle tile : Nat) (org : Origin) (c : OpaCmd) : OpaEntry :=
  { seq := seq, org := org, cmd := c, tile := tile, accepted := cycle, started := none, done := 0, verified := none, failed := false, src := [], srcMarks := [],
    work := [], marks := [], begun := [], row := 0, parts := [], told := [] }

/-- The number of a window store in the queue: outside the sequence numbers of commands. -/
def CoreSt.nextStore (c : CoreSt) : Nat := c.opa.foldl (fun n e => max n (e.seq + 1)) (2 ^ 32)

/-- A poisoned read of a tile's ownership entry at the arbiter (R258, R375): the tile becomes free and is cleared, then is bound to the gang
on the core; the record goes to the physical function. `inj` is an injected error. -/
def ownershipLost (core t : Nat) (inj : Bool) : Act :=
  .get fun s => .all [
    reportError 5 core 0 (0x01301000 + 32 * t) true inj true, unpoison (ownKey core t) 32,
    .when (s.tileState core t != 0) (freeThenBind core t)]

/-- The ownership entry of a tile reads poisoned. -/
def State.ownPoisoned (s : State) (core t : Nat) : Bool := (List.range 8).any fun w => s.poisoned (ownKey core t + 4 * w)

/-- A window store by the tiles that its bytes lie in, 4 for the operand SRAM: each part takes its place among the commands of its tile
(R111). -/
def OpaCmd.parts (c : OpaCmd) : List (Nat × OpaCmd) :=
  let tile (b : PByte) : Nat := if rangeOf b.addr = some .acc then (b.addr - 0x01200000) / 0x10000 else 4
  (c.bytes.map tile).eraseDups.map fun t => (t, { c with bytes := c.bytes.filter fun b => tile b == t })

/-- What arrives of a command or window store whose message had an uncorrectable error: images that are poisoned, or bytes (R372, R394). -/
def OpaCmd.struck (c : OpaCmd) (ue : Bool) : OpaCmd :=
  if c.op = 0 then { c with bytes := spoiled ue c.bytes } else { c with poisoned := c.poisoned || ue }

/-- `OPA_COMMAND_ACCEPT` (R256): an arriving command or window store is accepted or rejected; a full queue leaves it waiting. -/
def execOpaCommandAccept (k : Nat) (s : State) : Host.Outcome State Fault Refusal :=
  stepWith (onMsg k fun m => match m.pay with
    | .opa c => some (.get fun s =>
        let core := m.dst
        let st := s.coreSt core
        if 32 < st.opa.length + (if c.op = 0 then c.parts.length else 1) then .done
        else meshError core 0 fun ue => .get fun s =>
        let c := c.struck ue
        if c.op = 0 then
          .all [dropMsg k, acknowledge core m.org none true, .each c.parts fun p => .all [
                modCore core fun x => { x with opa := x.opa ++ [.fresh x.nextStore s.cycle p.1 m.org p.2] },
                .when (p.1 < 4) (.get fun s => setQcnt core p.1 (s.qcnt core p.1 + 1))]]
        else
        let inj := if c.poisoned then none else s.injects 5 core 0
        .all [
        .when (inj == some 1) (.all [useInjection, reportError 5 core 0 0 false true true]),
        .when (inj == some 2) useInjection,
        .when (!c.poisoned && (inj == some 2 || s.ownPoisoned core c.tile)) (ownershipLost core c.tile (inj == some 2)),
        .get fun s => match s.opaCheck core c with
          | some code =>
            .all [dropMsg k, match c.entry with | some e => freeEntry m.org.core e | none => .done,
                  acknowledge core m.org (some (condOf m.org code core (if code = 0x0804 then 0 else c.info c.tile))) true]
          | none =>
            .all [dropMsg k, acknowledge core m.org none true,
                  modCore core fun x => { x with opa := x.opa ++ [.fresh x.opaSeq s.cycle c.tile m.org c],
                                                 opaSeq := (x.opaSeq + 1) % 2 ^ 32 },
                  setQcnt core c.tile (s.qcnt core c.tile + 1),
                  .when c.writes (setWmark core c.tile 0)]])
    | _ => none) s

/-! ### The array -/

/-- The entries accepted before one. -/
def State.opaBefore (s : State) (core seq : Nat) : List OpaEntry := (s.coreSt core).opa.takeWhile fun e => e.seq != seq

/-- Accumulator element (i, j) of a tile. -/
def State.accElem (s : State) (core t i j : Nat) : Nat := s.loc core (tileAddr t + 512 * i + 4 * j) 4

/-- FP32 RNE (R176). -/
def rn (v : Val) : Nat := (Fmt.fp32.round .rne v).1
def fp (x : Nat) : Val := Fmt.fp32.decode x

/-- RN of a sum and of a product. -/
def rnAdd (a b : Val) : Nat := rn (sumVals .rne [a, b]).1
def rnMul (a b : Val) : Nat := rn (a.mul b).1

/-- The value of an operand element of MXMUL: a DM8 code exactly (R176). -/
def operandVal (t : LaneType) (x : Nat) : Val := if t = .dm8x4 then dm8Exact x else laneValue t x

/-- An E8M0 scale (R176, R177). -/
def e8m0 (e : Nat) : Val := if e = 255 then .nan false else let p := pow2 ((e : Int) - 127)
  .fin false p.1 p.2

/-- One k step on an element (R176). -/
def mulStep (ta tb tc : LaneType) (a b : Nat) (scale : Val) (c : Nat) : Nat :=
  if tc = .i32 then wrap 32 ((c : Int) + laneInt ta a * laneInt tb b)
  else if ta = .dm8x4 then rnAdd (fp c) (fp (rnMul (operandVal ta a) (operandVal tb b)))
  else rnAdd (fp c) (((operandVal ta a).mul (operandVal tb b)).1.mul scale).1

/-- Element b(k, j) in the operand SRAM (R262), as the core's path deciphers it (R91). -/
def State.elemB (s : State) (core : Nat) (g : List Byte) (k j : Nat) : Nat :=
  let at' (d : Nat) : Nat := (s.opsByte core (0x01000000 + tidBase g + j + 128 * d)).toNat
  match tidBits g with
  | 4 => at' (k / 2) / 16 ^ (k % 2) % 16
  | 16 => at' (2 * k) + 256 * at' (2 * k + 1)
  | _ => at' k

/-- The new element c(i, j) of an MXMUL (R262). -/
def State.mulElem (s : State) (core : Nat) (c : OpaCmd) (i j : Nat) : Nat :=
  let a := c.img 0
  let b := c.img 1
  let sc (g : List Byte) (n k : Nat) : Val :=
    if tidSmode g = 2 then e8m0 (s.operand core (tidSbase g + n + 128 * (k / 32)) 1) else .fin false 1 1
  let c0 := if bit c.imm 0 then 0 else s.accElem core c.tile i j
  (List.range c.kn).foldl (fun acc n =>
    let k := c.k0 + n
    mulStep (typeOf (tidType a)) (typeOf (tidType b)) (typeOf (tidType c.acc)) (s.elemAt core a (tidA a i k)) (s.elemB core b k j)
      ((sc a i k).mul (sc b j k)).1 acc) c0

/-- Cycles of the k steps (R20, R260, R262): a bank that holds both halves of A gives 64 B, and so a half of an E2M1 step pair, a cycle. -/
def OpaCmd.mulCycles (c : OpaCmd) : Nat :=
  let a := c.img 0
  let split := (List.range c.kn).all fun n =>
    (tidBase a + tidA a 0 (c.k0 + n) * tidBits a / 8) / 0x40000 != (tidBase a + tidA a 64 (c.k0 + n) * tidBits a / 8) / 0x40000
  let base := match tidBits a with | 4 => (c.kn + 1) / 2 | 16 => 2 * c.kn | _ => c.kn
  if split then base else if tidBits a = 4 then c.kn else 2 * base

/-- Element `j` of a vector operand, as FP32 (R267). -/
def State.vecElem (s : State) (core : Nat) (g : List Byte) (j : Nat) : Val :=
  laneValue (typeOf (tidType g)) (s.elemAt core g j)

/-- The new element of a PLDLT, with phase 1's w(i) (R267). -/
def State.deltaRow (s : State) (core : Nat) (c : OpaCmd) (i : Nat) : List Nat :=
  let t := c.tile
  let alpha := fp (c.c % 2 ^ 32)
  let beta := fp (c.c / 2 ^ 32)
  let k (j : Nat) : Val := s.vecElem core (c.img 0) j
  let u := (List.range 128).foldl (fun u j => rn ((fp (s.accElem core t i j)).fma .rne (k j) (fp u)).1) 0
  let w := rnMul beta (fp (rnAdd (s.vecElem core (c.img 1) i) (fp (rnMul alpha (fp u))).negate))
  (List.range 128).map fun j =>
    rn ((fp w).fma .rne (k j) (fp (rnMul alpha (fp (s.accElem core t i j))))).1

/-- The tile that a writing command leaves, row by row; `src` is a fill's spill. -/
def State.newTile (s : State) (core : Nat) (c : OpaCmd) (src : List Byte) : List Nat :=
  (List.range 128).flatMap fun i =>
    match c.op with
    | 0x71 => (List.range 128).map fun j => s.mulElem core c i j
    | 0x73 => List.replicate 128 0
    | 0x75 => s.deltaRow core c i
    | _ =>
      let lossy := leNat ((src.drop 0x20).take 2) == 2
      (List.range 128).map fun j =>
        if lossy then 65536 * leNat ((src.drop (0x40 + 256 * i + 2 * j)).take 2) else leNat ((src.drop (0x40 + 512 * i + 4 * j)).take 4)

/-- Any poisoned byte of an operand element in a core, at the byte where it starts. -/
def State.elemMarked (s : State) (core : Nat) (g : List Byte) (x : Nat) : Bool :=
  s.poisoned (Space.loc core (tidBase g + x * tidBits g / 8))

/-- A poisoned scale of element `n` of step `k` (R262). -/
def State.scaleMarked (s : State) (core : Nat) (g : List Byte) (n k : Nat) : Bool :=
  tidSmode g == 2 && s.poisoned (Space.loc core (tidSbase g + n + 128 * (k / 32)))

/-- The elements that a writing command leaves poisoned (R373): those for which a value that it reads is poisoned; of a fill, those
whose bytes of the spill were, at the offsets `bad`. -/
def State.newMarks (s : State) (core : Nat) (c : OpaCmd) (bad : List Nat) (lossy : Bool) : List Nat :=
  let a := c.img 0
  let b := c.img 1
  let ks := (List.range c.kn).map (c.k0 + ·)
  let own (i j : Nat) : Bool := s.poisoned (Space.loc core (tileAddr c.tile + 512 * i + 4 * j))
  let all := List.range 128
  match c.op with
  | 0x71 =>
    let rows := all.filter fun i => ks.any fun k => s.elemMarked core a (tidA a i k) || s.scaleMarked core a i k
    let cols := all.filter fun j => ks.any fun k => s.scaleMarked core b j k
      || (List.range (max 1 (tidBits b / 8))).any fun d => s.poisoned (Space.loc core (0x01000000 + tidBase b + j + 128 * (k * tidBits b / 8 + d)))
    (List.range 16384).filter fun n => rows.contains (n / 128) || cols.contains (n % 128) || (!bit c.imm 0 && own (n / 128) (n % 128))
  | 0x75 =>
    let every := all.any fun j => s.elemMarked core a j
    let rows := all.filter fun i => every || s.elemMarked core b i || all.any fun j => own i j
    (List.range 16384).filter fun n => rows.contains (n / 128)
  | 0x77 => if bad.isEmpty then [] else (List.range 16384).filter fun n =>
      bad.any fun o => 0x40 ≤ o && (o - 0x40) / (if lossy then 2 else 4) == n
  | _ => []

/-! ### Spills (R270) -/

/-- The spill of a tile whose watermark is given as `wm`. -/
def State.spillOf (s : State) (core t : Nat) (img : List Byte) (lossy : Bool) (wm : Nat) : List Byte :=
  let o := s.own core t
  let head := img ++ leBytes 2 (if lossy then 2 else 1) ++ leBytes 1 (bits o 63 62) ++ leBytes 1 wm ++ leBytes 2 (o % 2 ^ 16)
    ++ leBytes 2 0 ++ leBytes 2 (bits o 55 46) ++ leBytes 2 (bits o 45 30) ++ leBytes 4 (s.le (ownKey core t + 20) 4) ++ leBytes 8 0
  let payload := (List.range 16384).flatMap fun n =>
    let x := s.loc core (tileAddr t + 4 * n) 4
    if lossy then leBytes 2 (Fmt.bf16.round .rne (fp x)).1 else leBytes 4 x
  head ++ leBytes 8 (Config.mac s.powerCycle ((head ++ payload).map (·.toNat)) % 2 ^ 64) ++ payload

/-- A spill is one of this module and power cycle, of a tenant (R269, R270). -/
def State.spillOk (s : State) (src : List Byte) (tenant : Nat) : Bool :=
  let fmt := leNat ((src.drop 0x20).take 2)
  (fmt == 1 || fmt == 2) && leNat ((src.drop 0x28).take 2) % 1024 == tenant
    && leNat ((src.drop 0x38).take 8)
        == Config.mac s.powerCycle ((src.take 0x38 ++ (src.drop 0x40).take (if fmt == 2 then 32768 else 65536)).map (·.toNat)) % 2 ^ 64

/-! ### Start, groups and completion (R260) -/

/-- A transient tile of a gang that has ended is freed once no command is left on it (R258). -/
def freeIfEnded (core t : Nat) : Act :=
  .get fun s => .when (t < 4 && s.tileState core t == 1 && s.qcnt core t == 0 && (s.gang? (s.tileGang core t)).isNone)
    (freeTile core t)

/-- An entry leaves the queue: QCNT falls. -/
def dropOpa (core : Nat) (e : OpaEntry) : Act :=
  .get fun s => .all [
    .when (e.tile < 4) (setQcnt core e.tile (s.qcnt core e.tile - 1)),
    modCore core fun c => { c with opa := c.opa.filter fun x => x.seq != e.seq },
    freeIfEnded core e.tile]

/-- Completion: SEQ and QCNT change (R257, R260) and the entry is freed; a successful fill leaves SEQ as it is (R269; log 157). -/
def completeOpa (core : Nat) (e : OpaEntry) : Act :=
  .all [.when (e.cmd.op != 0 && !(e.cmd.op == 0x77 && e.cmd.fill && !e.failed)) (putLe (ownKey core e.tile + 20) 4 e.seq), dropOpa core e]

/-- A row that a tenant stop cannot close by force drains (R356): its instance has performed an atomic. -/
def State.draining (s : State) (core rid : Nat) : Bool :=
  (s.stop.any fun t => !t.resume && t.time + 8192 ≤ s.time) && (s.slot? core rid).any (·.inst.atomicDone)

/-- An OPA goes on: no stop has reached its core, or commands that a draining row waits for have not been accepted (R356). -/
def State.opaRuns (s : State) (core : Nat) : Bool :=
  (s.coreSt core).stopping.isNone || s.mesh.any fun m => m.dst == core && s.draining m.org.core m.org.rid &&
    (match m.pay with | .opa _ => true | _ => false)

/-- Earlier entries allow a command to start. A spill, whose header holds the check of its whole payload, starts once the earlier
writers are done. -/
def State.opaReady (s : State) (core : Nat) (e : OpaEntry) : Bool :=
  let before := s.opaBefore core e.seq
  let tile := before.filter fun x => x.tile == e.tile
  let unit := before.filter fun x => x.cmd.op != 0 && !x.cmd.pins && x.cmd.drains == e.cmd.drains
  e.started.isNone && e.accepted + 4 ≤ s.cycle && s.opaRuns core
    && !before.any (fun x => x.cmd.op == 0 && x.tile == 4)
    && !((s.coreSt core).clears.any fun c => c.1 == e.tile)
    && (if e.cmd.pins then tile.isEmpty
        else unit.isEmpty && (if e.cmd.writes then tile.isEmpty
          else tile.all fun x => x.cmd.op != 0 && (x.cmd.op != 0x77 || !x.cmd.fill || x.started.isSome) && !x.cmd.pins
            && !(e.cmd.op == 0x77 && x.cmd.writes)))

/-- The spill that a local fill reads. -/
def State.fillSource (s : State) (core : Nat) (c : OpaCmd) : List Byte :=
  s.operandBytes core c.c (spillBytes (s.operand core (c.c + 0x20) 2 == 2))

/-- Whether no writer of its tile has been accepted after an entry: then WMARK follows it (R111). -/
def State.lastWriter (s : State) (core : Nat) (e : OpaEntry) : Bool :=
  !(((s.coreSt core).opa.dropWhile fun x => x.seq != e.seq).drop 1).any fun x => x.tile == e.tile && x.cmd.writes

/-- A fill has its whole spill, with the offsets of its poisoned bytes: it is verified in the cycle before `v`, or fails SpillCheck there
(R260, R269). -/
def verifyFill (core : Nat) (e : OpaEntry) (src : List Byte) (bad : List Nat) (v : Nat) : Act :=
  .get fun s =>
    if s.spillOk src (s.tileTenant core e.tile) then
      modOpa core e.seq fun x => { x with
        src := src, srcMarks := bad, verified := some v, work := s.newTile core e.cmd src
        marks := s.newMarks core e.cmd bad (leNat ((src.drop 0x20).take 2) == 2) }
    else modOpa core e.seq fun x => { x with verified := some v, failed := true }

/-- A fill that fails SpillCheck writes no tile row, gives the watermark back and completes (R269). -/
def failFill (core : Nat) (e : OpaEntry) : Act :=
  .get fun s => .all [.when (s.lastWriter core e) (setWmark core e.tile 128),
    acknowledge core e.org (some (condOf e.org 0x0509 core (e.cmd.info e.tile))) false, completeOpa core e]

/-- A transfer to or from memory is handed to the Halyard queue, where it has had its place since its dispatch (R122, R269). -/
def startTransfer (core : Nat) (e : OpaEntry) : Act :=
  match e.cmd.entry with
  | none => .done
  | some h => modEntry core h fun x => { x with unstarted := false, opa := some e.seq, org := { e.org with seq := 0 } }

/-- What a drain command reads in full: TQ of PLRD, the scales of MXDRN; address, length. -/
def OpaCmd.drainOperand (c : OpaCmd) : Nat × Nat :=
  let g := c.img 0
  if c.op = 0x76 then (tidBase g, tidSpan g 127) else match tidSmode g with
    | 1 => (tidSbase g, 4)
    | 2 => (tidSbase g, 4 * (c.first + c.nrows))
    | _ => (0, 0)

/-- Pieces of local SRAM that a command reads as it starts: address, length. -/
def State.operandParts (s : State) (core : Nat) (c : OpaCmd) : List (Nat × Nat) :=
  let all := List.range 128
  let elem (g : List Byte) (x : Nat) : Nat × Nat := (tidBase g + x * tidBits g / 8, max 1 (tidBits g / 8))
  let scales (g : List Byte) (k : Nat) : List (Nat × Nat) := if tidSmode g = 2 then [(tidSbase g + 128 * (k / 32), 128)] else []
  match c.op with
  | 0x71 => (List.range c.kn).flatMap fun n =>
      let k := c.k0 + n
      all.map (fun i => elem (c.img 0) (tidA (c.img 0) i k)) ++ scales (c.img 0) k ++ scales (c.img 1) k
  | 0x75 => all.map (elem (c.img 0)) ++ all.map (elem (c.img 1))
  | 0x72 | 0x76 => [c.drainOperand]
  | 0x77 => if c.fill && !c.mem then [(c.c, (s.fillSource core c).length)] else []
  | _ => []

/-- The first byte of a guard granule that a command touches as it starts. -/
def State.guardTouched (s : State) (core : Nat) (c : OpaCmd) : Option Nat :=
  if s.guard.isEmpty then none
  else ((s.operandParts core c).flatMap fun p => (List.range p.2).map (p.1 + ·)).find? fun a => s.guarded (Space.loc core a)

/-- A command that touches a guard granule as it starts tells its row (R377). -/
def tellGuard (core : Nat) (e : OpaEntry) : Act :=
  .get fun s => match s.guardTouched core e.cmd with
    | some a => tellDrain core e.seq 0 e.org (condOf e.org 0x0805 core a)
    | none => .done

/-- MXDRN reads its scales, and PLRD TQ, once and in full (R260). -/
def readOperands (core : Nat) (e : OpaEntry) : Act :=
  .get fun s =>
    let x := e.cmd.drainOperand
    modOpa core e.seq fun y => { y with
      src := s.operandBytes core x.1 x.2, srcMarks := (List.range x.2).filter fun i => s.poisoned (Space.loc core (x.1 + i)) }

/-- `OPA_COMMAND_START` (R260): a command starts on its tile when the earlier ones allow; the pin commands act (R266). -/
def execOpaCommandStart (core seq : Nat) (s : State) : Host.Outcome State Fault Refusal :=
  stepWith (.get fun s => match s.opaEntry core seq with
    | none => .done
    | some e =>
      .when (e.cmd.op != 0 && s.opaReady core e) (.all [
        modOpa core seq fun x => { x with started := some s.cycle },
        tellGuard core e,
        .when (e.cmd.op == 0x71) (injectBytes core
          ((List.range (128 * tidSpan (e.cmd.img 1) (e.cmd.kn - 1))).map (0x01000000 + tidBase (e.cmd.img 1) + 128 * (e.cmd.k0 * tidBits (e.cmd.img 1) / 8) + ·))
          e.cmd.tenant),
        .when (e.cmd.op == 0x75 || (e.cmd.op == 0x71 && !bit e.cmd.imm 0)) (injectBytes core ((List.range 65536).map (tileAddr e.tile + ·)) e.cmd.tenant),
        injectBytes core ((s.operandParts core e.cmd).flatMap fun p => (List.range p.2).map (p.1 + ·)) e.cmd.tenant,
        .get fun s =>
        match e.cmd.op with
        | 0x74 => .all [
            if e.cmd.fill then .when (s.tileState core e.tile == 2) (freeThenBind core e.tile)
            else .when (s.tileState core e.tile == 1) (.all [
              putBits (ownKey core e.tile) 8 63 62 2, putLe (ownKey core e.tile + 8) 8 0, unpoison (ownKey core e.tile) 32]),
            completeOpa core e]
        | 0x77 =>
          if e.cmd.mem then
            .all [.when (!e.cmd.fill) (modOpa core seq fun x => { x with src := s.spillOf core e.tile e.cmd.acc e.cmd.lossy 128 }),
                  startTransfer core e]
          else if e.cmd.fill then
            let src := s.fillSource core e.cmd
            verifyFill core e src ((List.range src.length).filter fun i => s.poisoned (Space.loc core (e.cmd.c + i)))
              (s.cycle + (src.length + 63) / 64)
          else modOpa core seq fun x => { x with src := s.spillOf core e.tile e.cmd.acc e.cmd.lossy 128 }
        | 0x72 => readOperands core e
        | 0x76 => readOperands core e
        | _ => modOpa core seq fun x => { x with work := s.newTile core e.cmd [], marks := s.newMarks core e.cmd [] false }])) s

/-- The cycle in which group `g` of a writing command becomes final (R260). -/
def OpaEntry.finalAt (e : OpaEntry) (g : Nat) : Option Nat :=
  match e.started with
  | none => none
  | some s => match e.cmd.op with
    | 0x71 => some (s + e.cmd.mulCycles - 1 + 12 + g)
    | 0x73 => some (s + g)
    | 0x75 => some (s + 140 + 2 * g)
    | _ => e.verified.map fun v => v + 16 + 16 * g + 15

/-- The stop point of a fill (R271): no group after the one in progress at the core's stop cycle. -/
def State.pausedFill (s : State) (core : Nat) (e : OpaEntry) : Bool :=
  e.cmd.op == 0x77 && !s.opaRuns core && match (s.coreSt core).stopping, e.verified with
    | some t, some v => t < v + 16 + 16 * e.done
    | some _, none => true
    | none, _ => false

/-- `OPA_GROUP_FINAL` (R260): group `done` of a writing command becomes final; WMARK rises where the command is the last writer
accepted on its tile (R111); a fill counts its bytes (R269). -/
def execOpaGroupFinal (core seq : Nat) (s : State) : Host.Outcome State Fault Refusal :=
  stepWith (.get fun s => match s.opaEntry core seq with
    | none => .done
    | some e =>
      let g := e.done
      .when (e.cmd.writes && !e.failed && g < 8 && (e.finalAt g).any (· ≤ s.cycle) && !s.pausedFill core e) (
        .all [writeLocal core ((List.range 2048).flatMap fun n =>
                let i := 16 * g + n / 128
                let j := n % 128
                pbytes (tileAddr e.tile + 512 * i + 4 * j) 4 (e.work.getD (128 * i + j) 0) (e.marks.contains (128 * i + j))),
              .when (s.lastWriter core e) (setWmark core e.tile (16 * (g + 1))),
              modOpa core seq fun x => { x with done := g + 1 },
              .when (e.cmd.op == 0x77 && !e.cmd.mem) (countBar core e.org e.cmd.bar 8192)])) s

/-! ### The drain path (R261, R264, R265, R268) -/

/-- The first tile row of a drain command, and how many it has. -/
def OpaCmd.firstRow (c : OpaCmd) : Nat := if c.op = 0x72 then c.first else 0
def OpaCmd.rowCount (c : OpaCmd) : Nat := if c.op = 0x72 then c.nrows else 128

/-- Tile rows of group `n` of a drain command. -/
def OpaCmd.groupRows (c : OpaCmd) (n : Nat) : List Nat :=
  let lo := c.firstRow
  let hi := lo + c.rowCount
  (List.range 16).filterMap fun r => let i := 16 * (lo / 16 + n) + r
    if lo ≤ i ∧ i < hi then some i else none

/-- Groups of a command. -/
def OpaCmd.groups (c : OpaCmd) : Nat :=
  (c.firstRow + c.rowCount - 1) / 16 - c.firstRow / 16 + 1

/-- Every writer accepted before a reader has made a group final (R260). -/
def State.groupReady (s : State) (core : Nat) (e : OpaEntry) (g : Nat) : Bool :=
  (s.opaBefore core e.seq).all fun x => x.tile != e.tile || (x.cmd.op != 0 && (!x.cmd.writes || g < x.done))

/-- Cycles between tile rows (R260). -/
def OpaCmd.rowCycles (c : OpaCmd) : Nat :=
  match c.op with
  | 0x72 => (128 * tidBits (c.img 0) / 8 + 63) / 64
  | 0x76 => 1
  | _ => if c.lossy then 4 else 8

/-- An E8M0 or FP32 scale that an MXDRN has read, for an element (R177). -/
def OpaEntry.scale (e : OpaEntry) (i j : Nat) : Val :=
  match tidSmode (e.cmd.img 0) with
  | 1 => fp (leNat (e.src.take 4))
  | 2 => e8m0 (e.src.getD (4 * i + j / 32) 0).toNat
  | _ => .fin false 1 1

/-- A poisoned scale of an element. -/
def OpaEntry.scaleMarked (e : OpaEntry) (i j : Nat) : Bool :=
  match tidSmode (e.cmd.img 0) with
  | 1 => !e.srcMarks.isEmpty
  | 2 => e.srcMarks.contains (4 * i + j / 32)
  | _ => false

/-- One drained element (R264, R177). -/
def State.drainElem (s : State) (core : Nat) (e : OpaEntry) (i j : Nat) : Nat :=
  let c := e.cmd
  let t := typeOf (tidType (c.img 0))
  let x := s.accElem core c.tile i j
  let isInt := tidType c.acc == 0
  let d := (if isInt then Val.ofInt (signed 32 x) else fp x).div (e.scale i j)
  let q := d.1
  if t.isInt then
    if isInt && !bit c.imm 0 then
      match q with
      | .fin neg n d => let r := (roundFrac .rne neg n d).1
        wrap t.width (if neg then -(r : Int) else r)
      | _ => (laneToInt t .rne q).1
    else (laneToInt t .rne q).1
  else (laneResult t (if bit c.imm 0 then .srne else .rne) d).1

/-- The histogram bin of a drained FP32 element (R265). -/
def histBin (x : Nat) : Nat :=
  let e := bits x 30 23
  if x % 2 ^ 31 = 0 then 0 else if e = 255 then 31 else if e < 113 then 1 else if 141 ≤ e then 30 else e - 127 + 16

/-- The destination bytes of tile row `i` of an MXDRN. -/
def State.drainRow (s : State) (core : Nat) (e : OpaEntry) (i : Nat) : List PByte :=
  let td := e.cmd.img 0
  let at' (j : Nat) : Nat := j + tidStr td 1 * (i - e.cmd.first)
  let p (j : Nat) : Bool := s.poisoned (Space.loc core (tileAddr e.cmd.tile + 512 * i + 4 * j)) || e.scaleMarked i j
  if tidBits td = 4 then
    (List.range 64).flatMap fun n => pbytes (tidBase td + at' (2 * n) / 2) 1
      (s.drainElem core e i (2 * n) + 16 * s.drainElem core e i (2 * n + 1)) (p (2 * n) || p (2 * n + 1))
  else (List.range 128).flatMap fun j =>
    pbytes (tidBase td + at' j * (tidBits td / 8)) (tidBits td / 8) (s.drainElem core e i j) (p j)

/-- Element `x` of a vector operand that has been read in full. -/
def OpaEntry.vecElem (e : OpaEntry) (x : Nat) : Val :=
  let g := e.cmd.img 0
  let w := tidBits g / 8
  laneValue (typeOf (tidType g)) (leNat ((e.src.drop (w * x)).take w))

/-- One element of PLRD's o (R268). -/
def State.readout (s : State) (core : Nat) (e : OpaEntry) (i : Nat) : Nat :=
  (List.range 128).foldl (fun o j => rn ((fp (s.accElem core e.cmd.tile i j)).fma .rne (e.vecElem j) (fp o)).1) 0

/-- The bytes that tile row `i` of a drain command gives: of a spill with its header before row 0. -/
def State.rowOut (s : State) (core : Nat) (e : OpaEntry) (i : Nat) : List PByte :=
  let c := e.cmd
  match c.op with
  | 0x72 => s.drainRow core e i
  | 0x76 => pbytes (tidBase (c.img 1) + 4 * i) 4 (s.readout core e i)
      (!e.srcMarks.isEmpty || (List.range 128).any fun j => s.poisoned (Space.loc core (tileAddr c.tile + 512 * i + 4 * j)))
  | _ =>
    let row := if c.lossy then 256 else 512
    let lo := if i = 0 then 0 else 64 + row * i
    ((e.src.drop lo).take (64 + row * (i + 1) - lo)).zipIdx.map fun b =>
      { addr := c.c + lo + b.2, byte := b.1, exact := true
        poison := 64 ≤ lo + b.2 && s.poisoned (Space.loc core (tileAddr c.tile + (lo + b.2 - 64) * (if c.lossy then 2 else 1))) }

/-- The destination range that the beats of a row's bytes lie in: PLRD writes a beat for each group. -/
def OpaCmd.extent (c : OpaCmd) (i : Nat) (bs : List PByte) : Nat × Nat :=
  if c.op = 0x76 then (tidBase (c.img 1) + i / 16 * 64, tidBase (c.img 1) + i / 16 * 64 + 64)
  else ((bs.head?).elim 0 (·.addr), (bs.head?).elim 0 (·.addr) + bs.length)

/-- What a tile row adds to the bins of its drain's histogram (R265), a bin's elements in one count; a poisoned element is not counted (R373). -/
def State.binOps (s : State) (core : Nat) (e : OpaEntry) (i : Nat) : List AtomicOp :=
  let c := e.cmd
  if c.op = 0x72 ∧ tidHen (c.img 0) = true ∧ tidType c.acc = 6 then
    let hits := (List.range 128).filterMap fun j =>
      if s.poisoned (Space.loc core (tileAddr c.tile + 512 * i + 4 * j)) then none else some (histBin (s.accElem core c.tile i j))
    (List.range 32).filterMap fun b => if hits.count b = 0 then none
      else some { cas := false, fn := 64, ty := .n32, addr := tidHbase (c.img 0) + 4 * b, b := hits.count b, c := 0, poison := false }
  else []

/-- The bytes of the bins that a tile row adds to. -/
def State.binBytes (s : State) (core : Nat) (e : OpaEntry) (i : Nat) : List PByte :=
  (s.binOps core e i).flatMap fun o => pbytes o.addr 4 0 false

/-- The row that holds back a count of a bin: open, or claimed (R74, R77). -/
def State.binRow (s : State) (core : Nat) (o : AtomicOp) : Option Nat :=
  if s.away core noRow { addr := o.addr, byte := 0, poison := false } then some (ridOf o.addr) else none

/-- The histogram updates of a tile row of group `n` (R265): a bin that lies in an open or claimed row takes its count with what is held for that
row, as the drain's bytes do (R74), and the group waits for it. -/
def histogram (core : Nat) (e : OpaEntry) (n i : Nat) : Act :=
  .get fun s =>
    let ops := s.binOps core e i
    .all [performBins core e.org e.seq n (ops.filter fun o => (s.binRow core o).isNone),
          .each (ops.filterMap (s.binRow core)).eraseDups fun r => .all [
            holdFor core r (.bins e.org e.seq n (ops.filter fun o => s.binRow core o == some r)), drainPart core e.seq n 1 0]]

/-- The reading of the next group of a drain may begin: the writers before it have made it final, and the group before it has been read
(R260). A spill reads its first tile row after its header. MXDRN and PLSPL begin none once their core stops (R271). -/
def State.groupBegins (s : State) (core : Nat) (e : OpaEntry) : Bool :=
  let c := e.cmd
  let n := e.begun.length
  n < c.groups && s.groupReady core e (c.firstRow / 16 + n)
    && (e.begun.getLast?).all (fun v => v + (c.groupRows (n - 1)).length * c.rowCycles ≤ s.cycle)
    && (c.op != 0x77 || e.started.any (· < s.cycle)) && (c.op == 0x76 || s.opaRuns core)

/-- Tile row `i` of a drain has been read and its bytes are written in this cycle, 16 cycles later, where its group's reading has begun
(R260). -/
def OpaEntry.rowDue (e : OpaEntry) (i cycle : Nat) : Bool :=
  (e.begun[i / 16 - e.cmd.firstRow / 16]?).any fun v => v + (i - max (i / 16 * 16) e.cmd.firstRow) * e.cmd.rowCycles + 16 ≤ cycle

/-- A drain writes its next tile row, once the inbound buffers have room for what is held of it (R74). A group whose rows are all written
is counted once they are performed (R261). -/
def writeRow (core seq : Nat) : Act :=
  .get fun s => match s.opaEntry core seq with
    | none => .done
    | some e =>
      let c := e.cmd
      let i := c.firstRow + e.row
      let n := i / 16 - c.firstRow / 16
      let rows := c.groupRows n
      let bs := s.rowOut core e i
      let x := c.extent i bs
      .when (e.row < c.rowCount && e.rowDue i s.cycle && s.hasRooms core [bs, s.binBytes core e i]) (.all [
        modOpa core seq fun y => { y with
          row := y.row + 1, done := if rows.getLast? == some i then n + 1 else y.done
          parts := if rows.head? == some i then y.parts ++ [(n, rows.length, 0)] else y.parts },
        histogram core e n i,
        engineStore core e.org x.1 x.2 bs (.drain seq n) fun cnt parts conds =>
          .all [.each conds (tellDrain core seq n e.org), drainPart core seq n ((parts : Int) - 1) cnt]])

/-- `DRAIN_GROUP_WRITE` (R261): the reading of a group begins once the writers before it allow; its tile rows are written one by one. -/
def execDrainGroupWrite (core seq : Nat) (s : State) : Host.Outcome State Fault Refusal :=
  stepWith (.get fun s => match s.opaEntry core seq with
    | none => .done
    | some e =>
      .when (e.cmd.drains && !e.cmd.mem && e.started.isSome) (.all [
        .when (s.groupBegins core e) (.all [
          injectBytes core ((e.cmd.groupRows e.begun.length).flatMap fun i => (List.range 512).map (tileAddr e.tile + 512 * i + ·)) e.cmd.tenant,
          modOpa core seq fun y => { y with begun := y.begun ++ [s.cycle] }]),
        writeRow core seq])) s

/-- `OPA_COMMAND_COMPLETE` (R260): the last group is final, or the last destination byte performed and counted; or a fill has failed. -/
def execOpaCommandComplete (core seq : Nat) (s : State) : Host.Outcome State Fault Refusal :=
  stepWith (.get fun s => match s.opaEntry core seq with
    | none => .done
    | some e =>
      let gone := e.cmd.mem && e.started.isSome && (s.coreSt core).halyard.all fun h => h.2.opa != some seq
      if e.failed then .when (e.verified.any (· ≤ s.cycle + 1)) (failFill core e)
      else .when ((e.cmd.writes && e.done == 8) || (e.cmd.drains && !e.cmd.mem && e.started.isSome && e.done == e.cmd.groups && e.parts.isEmpty)
          || (e.cmd.mem && !e.cmd.fill && gone))
        (completeOpa core e)) s

/-- `WINDOW_STORE_PERFORM` (R111): a window store is performed once every command and window store accepted before it on its
tile has completed; a store to the operand SRAM once the earlier window stores to it are. -/
def execWindowStorePerform (core seq : Nat) (s : State) : Host.Outcome State Fault Refusal :=
  stepWith (.get fun s => match s.opaEntry core seq with
    | none => .done
    | some e =>
      .when (e.cmd.op == 0 && (s.opaBefore core seq).all (fun x => x.tile != e.tile)
          && !((s.coreSt core).clears.any fun c => c.1 == e.tile))
        (.all [writeLocal core e.cmd.bytes,
               .when (e.tile == 4) (upd fun s => { s with opsKey := e.cmd.bytes.foldl (fun t b =>
                 Tab.set t (Space.loc core b.addr) (s.opsPathKey core)) s.opsKey }),
               completeOpa core e])) s

end Sys2Proof.Machine
end

