-- ==== Sys2Proof/Machine/Arrival.lean ====
section
/-!
DEFINITION. What the mesh brings to a core: acknowledgements and conditions (R143, R344), remote stores and atomics at the
arrival port with its inbound buffers and trace ring (R74, R114, R153, R279), and the messages of forks: task starts, releases
and the steps of merge chains (R216, R298 to R300, R333, R334, R360, R362).
-/

namespace Sys2Proof.Machine

/-! ### Acknowledgements and conditions -/

/-- `ACKNOWLEDGEMENT` (R143): one without a condition. -/
def execAcknowledgement (k : Nat) (s : State) : Host.Outcome State Fault Refusal :=
  stepWith (onMsg k fun m => match m.pay with
    | .ack none counted => some (.all [dropMsg k, .when counted (lowerCount m.org)])
    | _ => none) s

/-- `ASYNC_CONDITION` (R344): a condition arrives, with the acknowledgement of its access. -/
def execAsyncCondition (k : Nat) (s : State) : Host.Outcome State Fault Refusal :=
  stepWith (onMsg k fun m => match m.pay with
    | .ack (some c) counted => some (.all [dropMsg k, .when counted (lowerCount m.org), deliverOnce m.org c])
    | .cond c => some (.all [dropMsg k, deliverCond m.org.core m.org.rid c])
    | _ => none) s

/-! ### The arrival port (R74) -/

/-- The row that an access is held for: open, or claimed (R74, R216). -/
def State.holder (s : State) (core : Nat) (as : List Nat) : Option Nat :=
  (as.find? fun a => s.away core noRow { addr := a, byte := 0, poison := false }).map ridOf

/-- Log2 of a size, at most 7. -/
def sizeLog (n : Nat) : Nat := if n ≤ 1 then 0 else if n ≤ 2 then 1 else if n ≤ 4 then 2 else if n ≤ 8 then 3
  else if n ≤ 16 then 4 else if n ≤ 32 then 5 else if n ≤ 64 then 6 else 7

/-- An access passes the port and takes the next trace ring entry (R153, R154). -/
def traceArrival (core src kind addr size : Nat) (held : Bool) : Act :=
  .get fun s => modCore core fun c =>
    if c.trEn then
      { c with trace := Tab.set c.trace c.trNext { time := s.time, src := src, kind := kind, held := held, size := sizeLog size, addr := addr },
               trWrap := c.trWrap || (Tab.find? c.trace c.trNext).isSome, trNext := (c.trNext + 1) % 1024 }
    else c

/-- A byte of a row's control field. -/
def State.controlByte (s : State) (core a : Nat) : Bool :=
  a < 0x200000 && a % 0x1000 < 0x80 && (s.row? core (ridOf a)).isSome

/-- `REMOTE_STORE_ARRIVAL` (R74): the parts in open or claimed rows are held, the others performed; it waits while a bank's inbound
buffer is full. Halyard data for a peer core is performed as an engine's write. -/
def execRemoteStoreArrival (k : Nat) (s : State) : Host.Outcome State Fault Refusal :=
  stepWith (onMsg k fun m => match m.pay with
    | .store a n bs none => some (.get fun s =>
        let core := m.dst
        .when (s.accepts core bs) (meshError core a fun ue => .all [
          dropMsg k,
          traceArrival core m.src (if bs.any fun b => s.controlByte core b.addr then 2 else 0) a n (!(s.heldParts core noRow bs).isEmpty),
          placeStore core noRow m.org (spoiled ue bs) .remote fun _ _ c => acknowledge core m.org c true]))
    | .store a n bs (some id) => some (.get fun s =>
        .when (s.accepts m.dst bs) (meshError m.dst a fun ue =>
          .all [dropMsg k, engineStore m.dst m.org a (a + n) (spoiled ue bs) (.acc id) (placeAcc id)]))
    | _ => none) s

/-- `REMOTE_ATOMIC_ARRIVAL` (R279): performed at the bank unit, or held. An add of HSADD is performed at its core (R292). -/
def execRemoteAtomicArrival (k : Nat) (s : State) : Host.Outcome State Fault Refusal :=
  stepWith (onMsg k fun m => match m.pay with
    | .atomic op h => some (.get fun s =>
        let core := m.dst
        let w := atomicWidth op.ty
        let row := s.holder core ((List.range w).map (op.addr + ·))
        .when (s.accepts core (pbytes op.addr w 0 false)) (meshError core op.addr fun ue =>
          let op := { op with poison := op.poison || ue }
          .all [
          dropMsg k,
          match h with
          | none => .all [
              traceArrival core m.src 1 op.addr w row.isSome,
              match row with
              | some r => .all [holdFor core r (.atomic m.org op .remote), acknowledge core m.org none true]
              | none => performAtomic core m.org op none fun _ c => acknowledge core m.org c true]
          | some id =>
            match row with
            | some r => .all [placeAcc id 0 1 [], holdFor core r (.atomic m.org op (.acc id))]
            | none => performAtomic core m.org op ((s.acc? id).map fun a => (a.va, a.pa)) fun old c =>
                finishAcc id (if old.isSome then 4 else 0) c.toList]))
    | _ => none) s

/-! ### Task rows (R216, R298) -/

/-- Identity words of an operator (R300): the words of one element, or of one pair. -/
def identityWords (op ty : Nat) : List Nat :=
  match op with
  | 1 => [if ty = 6 then 0xFF800000 else if ty = 0 then 0x80000000 else 0]
  | 2 => [if ty = 6 then 0x7F800000 else if ty = 0 then 0x7FFFFFFF else 0xFFFFFFFF]
  | 4 => [0xFF800000, 0]
  | 5 => [0xFF800000, 0xFFFFFFFF]
  | _ => [0]

/-- The data areas of an instance: entry, offset from the header (R298). -/
def State.areas (s : State) (core : Nat) : Nat → List Nat → List (Nat × Nat)
  | _, [] => []
  | off, v :: vs => (v, off) :: State.areas s core (off + areaSize (s.vsizeOf core v)) vs

/-- `TASK_START` (R216, R298): the claimed row becomes a ready task row, its view instance blank, and the accesses held
during the claim are performed. In a row that is still closing, what was held before the claim comes first (R216). -/
def execTaskStart (k : Nat) (s : State) : Host.Outcome State Fault Refusal :=
  stepWith (onMsg k fun m => match m.pay with
    | .start rid lo n task tasks jcore jcell entry => some (.get fun s =>
        let core := m.dst
        let inst := (s.row? core rid).elim 0 (·.view)
        let slots := (s.forkAt jcore jcell).elim [] (·.slots)
        let areas := s.areas jcore 64 slots
        let size := 64 + (slots.map fun v => areaSize (s.vsizeOf jcore v)).sum
        .when ((s.row? core rid).all (·.early == 0)) <| .all [dropMsg k, wipe (Space.loc core inst) size, unpoison (Space.loc core inst) size,
          touch core ((List.range size).map (inst + ·)),
          putLe (Space.loc core (inst + 1)) 1 slots.length, putLe (Space.loc core (inst + 2)) 2 task,
          putLe (Space.loc core (inst + 4)) 4 (jcore * 2 ^ 24 + jcell),
          .each areas.zipIdx fun a => putLe (Space.loc core (inst + 8 + 2 * a.2)) 2 a.1.2,
          .each areas fun a =>
            let id := identityWords (s.vopOf jcore a.1) (s.vtypeOf jcore a.1)
            put (Space.loc core (inst + a.2)) ((List.range (areaSize (s.vsizeOf jcore a.1) / 4)).flatMap fun w => leBytes 4 (id.getD (w % id.length) 0)),
          putRow core rid 0x80 8 lo, putRow core rid 0x88 8 n, putRow core rid 0x90 8 task, putRow core rid 0x98 8 tasks,
          putRow core rid 0x70 8 (jcore * 2 ^ 56 + tasks * 2 ^ 47 + task * 2 ^ 39 + jcell), setPc core rid entry,
          modRow core rid fun r => { r with
            claim := none, rep := 0, trapBit := false,
            redir := areas.map fun a => { base := s.vbaseOf jcore a.1, size := s.vsizeOf jcore a.1, data := inst + a.2 } },
          makeReady core rid, settleHeld core rid])
    | _ => none) s

/-- `CLAIM_RELEASE` (R216): the row is idle again, its instance returns to the pool and its held accesses are performed. -/
def execClaimRelease (k : Nat) (s : State) : Host.Outcome State Fault Refusal :=
  stepWith (onMsg k fun m => match m.pay with
    | .release rid => some (.get fun s =>
        .all [dropMsg k, poolFree m.dst ((s.row? m.dst rid).elim 0 (·.view)),
              modRow m.dst rid fun r => { r with claim := none, early := 0, view := 0 }, settleHeld m.dst rid])
    | _ => none) s

/-! ### Merges (R299, R300, R333) -/

/-- One element of l ⊕ r; for lse and argmax one pair, in two words (R300). -/
def mergeElem (op ty : Nat) (l r : List Nat) : List Nat :=
  let a := l.getD 0 0
  let b := r.getD 0 0
  let t : LaneType := if ty = 6 then .fp32 else if ty = 0 then .i32 else .n32
  match op with
  | 0 => [if ty = 6 then rnAdd (fp a) (fp b) else (a + b) % 2 ^ 32]
  | 1 => [(minMaxElem true t a b).1]
  | 2 => [(minMaxElem false t a b).1]
  | 3 => [a ||| b]
  | 4 =>
    let m := (minMaxElem true .fp32 a b).1
    let term (mi si : Nat) : Nat :=
      if mi = 0xFF800000 then 0 else rnMul (fp si) (fp (specialFn 2 (rnAdd (fp mi) (fp m).negate)).1)
    [m, rnAdd (fp (term a (l.getD 1 0))) (fp (term b (r.getD 1 0)))]
  | _ =>
    let beats := (fp a).lt (fp b) || ((fp a).eq (fp b) && r.getD 1 0 < l.getD 1 0) || ((fp a).isNan && !(fp b).isNan)
    if beats then r else l

/-- The words of a data area, merged. -/
def mergeWords (op ty : Nat) : List Nat → List Nat → List Nat
  | a :: b :: l, c :: d :: r =>
    if 4 ≤ op then mergeElem op ty [a, b] [c, d] ++ mergeWords op ty l r
    else mergeElem op ty [a] [c] ++ mergeElem op ty [b] [d] ++ mergeWords op ty l r
  | [a], [c] => mergeElem op ty [a] [c]
  | _, _ => []

/-- The words of a data area at a core; tagged guard bytes read as 0 (R377). -/
def State.areaWords (s : State) (core a size : Nat) : List Nat :=
  (List.range (size / 4)).map fun w => if s.guarded (Space.loc core (a + 4 * w)) then 0 else s.loc core (a + 4 * w) 4

/-- Any poisoned byte of an area. -/
def State.areaPoison (s : State) (core a size : Nat) : Bool :=
  (List.range (size / 4)).any fun w => s.poisoned (Space.loc core (a + 4 * w))

/-- L.data := L.data (+) R.data, for every tile of a fork; an element of L that is poisoned stays so (R373). -/
def mergeData (s : State) (fk : ForkSt) (l r : Nat × Nat × Nat) : Act :=
  .each (s.areas fk.core 64 fk.slots) fun a =>
    let op := s.vopOf fk.core a.1
    let ty := s.vtypeOf fk.core a.1
    let n := s.vsizeOf fk.core a.1
    writeLocal l.1 ((mergeWords op ty (s.areaWords l.1 (l.2.2 + a.2) n) (s.areaWords r.1 (r.2.2 + a.2) n)).zipIdx.flatMap fun w =>
      let own (k : Nat) : Bool := s.poisoned (Space.loc l.1 (l.2.2 + a.2 + 4 * k))
      pbytes (l.2.2 + a.2 + 4 * w.2) 4 w.1 (own w.2 || (4 ≤ op && own (w.2 / 2 * 2)) || (4 ≤ op && own (w.2 / 2 * 2 + 1))))

/-- The root result is written and the parent made ready, as one event (R151, R217, R334); a refused part of it is the parent's
condition (R355). -/
def joinComplete (fk : ForkSt) : Act :=
  .get fun s =>
    let pr := fk.parent
    let root := fk.tasks.getD 0 (0, 0, 0)
    let waits := s.code fk.core pr == 3 && s.waitk fk.core pr == 5 && s.waitobj fk.core pr == fk.cell
    .all [.each (s.areas fk.core 64 fk.slots) fun a =>
            let base := s.vbaseOf fk.core a.1
            let org := { Origin.device fk.core with rid := pr, gang := s.gangId fk.core pr, func := s.tenant fk.core pr }
            let at' := s.redirect fk.core pr base
            engineStore fk.core org at' (at' + s.vsizeOf fk.core a.1)
              ((s.areaWords root.1 (root.2.2 + a.2) (s.vsizeOf fk.core a.1)).zipIdx.flatMap fun w =>
                pbytes (s.redirect fk.core pr (base + 4 * w.2)) 4 w.1 (s.poisoned (Space.loc root.1 (root.2.2 + a.2 + 4 * w.2))))
              .own fun _ _ conds => .each conds (deliverCond fk.core pr),
          endFork fk, .when waits (.all [clearWait fk.core pr, makeReady fk.core pr])]

/-- A chain has stopped or reached the root: REMAIN falls, and at 0 the join completes. -/
def chainEnd (fk : ForkSt) : Act :=
  .get fun s =>
    let n := s.loc fk.core fk.cell 2 - 1
    let poisoned := s.loc fk.core (fk.cell + 7) 1 == 2
    .all [putLoc fk.core fk.cell 2 n, .when (n == 0) (if poisoned then endFork fk else joinComplete fk)]

/-- A chain may take its step at a merge unit (R333). `waits` of its message is 0 on the way from another core, 1 once its first step has
reached the unit of its core, and 2 from that step on. A unit starts a chain when no other that has started there is left, in the order in
which they reached it, those of one cycle in ascending task index. -/
def State.chainTurn (s : State) (k : Nat) : Bool :=
  match s.mesh[k]? with
  | none => false
  | some m => match m.pay with
    | .merge _ _ i _ =>
      m.waits != 1 || s.mesh.zipIdx.all fun n => match n.1.pay with
        | .merge _ _ j _ => n.2 == k || n.1.dst != m.dst || n.1.waits == 0
            || (n.1.waits == 1 && keyLt [m.since, i, k] [n.1.since, j, n.2])
        | _ => true
    | _ => false

/-- A merge reads poison: it is consumed (R375, R395). -/
def mergePoison (fk : ForkSt) (l r : Nat × Nat × Nat) : Act :=
  .get fun s =>
    let bytes := (s.areas fk.core 64 fk.slots).flatMap fun x => (List.range (s.vsizeOf fk.core x.1)).map (r.2.2 + x.2 + ·)
    poisonConsumed l.1 (s.tenant fk.core fk.parent) ((s.firstPoisoned r.1 bytes).getD 0)

/-- The merge unit of a core reads the data of two instances, and the mark of the first (R394). -/
def mergeRead (fk : ForkSt) (l r : Nat × Nat × Nat) : Act :=
  .get fun s =>
    let bytes (a : Nat) : List Nat := (s.areas fk.core 64 fk.slots).flatMap fun x => (List.range (s.vsizeOf fk.core x.1)).map (a + x.2 + ·)
    .all [injectBytes l.1 ((List.range 64).map (l.2.2 + ·) ++ bytes l.2.2) (s.tenant fk.core fk.parent),
          injectBytes r.1 (bytes r.2.2) (s.tenant fk.core fk.parent)]

/-- A chain goes on to the node at depth `d`: where the merge unit of that step's core is another one, on its way there, and it takes its
place there as it arrives (R299, R333; log 135). -/
def chainOn (k : Nat) (m : Msg) (fk : ForkSt) (c a i d : Nat) : Act :=
  .get fun s =>
    let unit := if d = 0 then m.dst else (fk.tasks.getD (nodeAt (d - 1) 0 fk.tasks.length i).1 (m.dst, 0, 0)).1
    let next := if unit = m.dst then { m with pay := .merge c a i d, waits := 2 }
      else { m with pay := .merge c a i d, src := m.dst, dst := unit, waits := 0, since := s.cycle }
    upd fun s => { s with mesh := s.mesh.set k next }

/-- `MERGE_STEP` (R299, R333): one TestAndSet of a chain and the merge it leads to. After a poisoning a chain only frees its
instance and counts down (R362); a merge that reads poison poisons the cell (R360). -/
def execMergeStep (k : Nat) (s : State) : Host.Outcome State Fault Refusal :=
  stepWith (onMsg k fun m => match m.pay with
    | .merge c a i d => some (.get fun s =>
        match s.forkAt c a with
        | none => dropMsg k
        | some fk =>
          .when (s.chainTurn k) (
            if m.waits = 0 then upd fun s => { s with mesh := s.mesh.set k { m with waits := 1, since := s.cycle } }
            else if s.loc c (a + 7) 1 = 2 then .all [dropMsg k, dropTask fk i]
            else match d with
              | 0 => .all [dropMsg k, chainEnd fk]
              | p + 1 =>
                let node := nodeAt p 0 fk.tasks.length i
                let right := node.1 + (node.2 + 1) / 2
                let l := fk.tasks.getD node.1 (0, 0, 0)
                let r := fk.tasks.getD right (0, 0, 0)
                .all [.when (bit (s.loc l.1 l.2.2 1) p) (mergeRead fk l r), .get fun s =>
                let mark := s.loc l.1 l.2.2 1
                if !bit mark p then
                  .all [putLoc l.1 l.2.2 1 (mark + 2 ^ p), dropMsg k, chainEnd fk]
                else if s.areaPoison l.1 l.2.2 64 || s.areaPoison c a 16
                    || (s.areas c 64 fk.slots).any fun x => s.areaPoison r.1 (r.2.2 + x.2) (s.vsizeOf c x.1) then
                  if s.rollsBack (s.gangId fk.core fk.parent) then .all [mergePoison fk l r, startRollback (s.gangId fk.core fk.parent)]
                  else .all [mergePoison fk l r, joinPoison fk right 0x0804 r.1, trappedChain 64 fk.core fk.parent, dropMsg k, chainEnd fk]
                else
                  .all [putLoc l.1 l.2.2 1 (mark - 2 ^ p), mergeData s fk l r, freeTaskView fk right,
                        chainOn k m fk c a i p]]))
    | _ => none) s

end Sys2Proof.Machine
end

