-- ==== Sys2Proof/Machine/Global.lean ====
section
/-!
DEFINITION. Global memory as a core's Halyard queue reaches it: the physical map (R118, R119), translation and page requests
(R308 to R313, R380 to R382), chunks and their accesses (R123 to R125, R144 to R148), the get-cache (R127 to R129), guest
table capture (R315) and the data of an access at its home (R310, R370 to R377).
-/

namespace Sys2Proof.Machine

/-! ### The physical map (R118, R119) -/

def isHbm (pa : Nat) : Bool := pa < 2 ^ 39
def isLpddr (pa : Nat) : Bool := 2 ^ 40 ≤ pa && pa < 2 ^ 40 + 2 ^ 36
def isPeer (pa : Nat) : Bool := 2 ^ 44 ≤ pa && pa < 2 ^ 44 + 2 ^ 42
def isHost (pa : Nat) : Bool := 2 ^ 51 ≤ pa && pa < 2 ^ 52

/-- The stack of an HBM address (R119). -/
def stackOf (pa : Nat) : Nat := Nat.xor (bits pa 13 11) (bits pa 24 22)

/-- The 2 MiB region of an HBM address (R133). -/
def regionOf (pa : Nat) : Nat := pa / 2 ^ 21

/-! ### Bytes at their home -/

/-- First byte, in the LPDDR node, of a slot of the re-home area (R393). -/
def slotAt (n : Nat) : Nat := 2 ^ 40 + 2 ^ 34 + n * 2 ^ 18

/-- Where the byte of a physical address lies: its own place, or, of a quarantined stack, that in the slot of its region (R393). A stack
holds 2 KiB of every 16 KiB of a region (R119). -/
def State.homePa (s : State) (pa : Nat) : Nat :=
  if isHbm pa then
    (s.rehome.find? fun r => r.1 == stackOf pa && r.2.1 == regionOf pa).elim pa fun r => slotAt r.2.2 + bits pa 20 14 * 2048 + pa % 2048
  else pa

/-- The key of `mem` at which the byte of a key lies (R393). -/
def State.homeKey (s : State) (a : Nat) : Nat :=
  if !s.rehome.isEmpty && Space.phys 0 ≤ a then Space.phys (s.homePa (a - Space.phys 0)) else a

/-- The byte at a key of `mem` as a path with a key of the cipher reads it (R310): noise where its 64-byte unit was written under another
key, or under none; by a path without a key, the ciphertext of a unit written under one. Host memory has no cipher: its path has no key
and its units have none. The tweak is the address, also where the unit lies in a slot. -/
def State.unitByte (s : State) (key : Option Nat) (a : Nat) : Byte :=
  let h := s.homeKey a
  let u := h / 64 * 64
  if Tab.find? s.physKey u = key then s.byte h else Config.noise (Tab.find? s.physKey u) (key.getD 0) a (s.bytes u 64)

/-- Bytes at a physical address as a path with a key reads them. `old` sees the contents of a region from before it was marked not live;
else such a region reads zeros without poison (R134, R376). -/
def State.physRead (s : State) (key : Option Nat) (old : Bool) (pa n : Nat) : List (Byte × Bool) :=
  (List.range n).map fun i =>
    let a := pa + i
    if isHbm a && s.deadRegions.contains (regionOf a) && !old then (0, false)
    else (s.unitByte key (Space.phys a), s.poisoned (s.homeKey (Space.phys a)))

/-- Write bytes within one 64-byte unit of `mem` (R310): a unit that was not enciphered under the path's key is read through it first and
written back whole. Clean bytes clear the mark of a granule they cover; a poisoned byte marks it (R372, R373). -/
def unitWrite (key : Option Nat) (a : Nat) (bs : List (Byte × Bool)) : Act :=
  .get fun s =>
    let h := s.homeKey a
    let u := h / 64 * 64
    .all [match key with
          | some k => .all [.when (Tab.find? s.physKey u != some k) (put u ((List.range 64).map fun i => s.unitByte key (a / 64 * 64 + i))),
              upd fun s => { s with physKey := Tab.set s.physKey u k }]
          | none => .done,
          put h (bs.map (·.1)),
          if bs.any (·.2) then poisonAt h else unpoison h bs.length]

/-- Write bytes within one 64-byte unit of the physical space. -/
def physWrite (key : Option Nat) (pa : Nat) (bs : List (Byte × Bool)) : Act := unitWrite key (Space.phys pa) bs

/-! ### Leases (R136) -/

/-- Word `w` of LEASE and EXPORT entries. -/
def State.lease (s : State) (i w : Nat) : Nat := s.bar 0 (0x12800 + 32 * i + 8 * w) 8
def State.export' (s : State) (i w : Nat) : Nat := s.bar 0 (0x13000 + 32 * i + 8 * w) 8
def State.leaseState (s : State) (i : Nat) : Nat := bits (s.lease i 0) 63 62
def State.leaseBase (s : State) (i : Nat) : Nat := bits (s.lease i 2) 51 21 * 2 ^ 21
def State.leaseSize (s : State) (i : Nat) : Nat := (bits (s.lease i 0) 46 32 + 1) * 2 ^ 21

/-- The lease whose window holds an address: one that is active or revoking before one that is revoked (R137). -/
def State.leaseOf (s : State) (pa : Nat) : Option Nat :=
  let holds := (List.range 64).filter fun i => s.leaseState i != 0 && s.leaseBase i ≤ pa && pa < s.leaseBase i + s.leaseSize i
  (holds.find? fun i => s.leaseState i != 3).orElse fun _ => holds.head?

/-! ### The walk (R308, R309) -/

/-- How a walk ends. -/
inductive WalkEnd where
  | leaf (entry level : Nat)
  | fault (kind level : Nat)
  | absent (level : Nat)
  deriving DecidableEq, Repr

/-- Walk from a table of a level. -/
def State.walkFrom (s : State) (va : Nat) : Nat → Nat → WalkEnd
  | 0, table =>
    let e := s.le (Space.phys (table + 8 * bits va 20 12)) 8
    if !bit e 0 then .absent 0 else if bit e 1 then .leaf e 0 else .fault 11 0
  | l + 1, table =>
    let e := s.le (Space.phys (table + 8 * bits va (29 + 9 * l) (21 + 9 * l))) 8
    if !bit e 0 then .absent (l + 1)
    else if l = 2 ∧ bit e 1 then .fault 1 3
    else if l = 2 ∧ bit e 2 then .fault 2 3
    else if bit e 1 then .leaf e (l + 1)
    else
      let next := bits e 51 12 * 4096
      if isHost next then s.walkFrom va l next else .fault 10 (l + 1)

/-- The walk of a function's context, from TROOT. -/
def State.walk (s : State) (f va : Nat) : WalkEnd :=
  let root := bits (s.funcWord f 0) 51 12 * 4096
  if isHost root then s.walkFrom va 3 root else .fault 10 3

/-- The entries that a walk reads from a table of a level down: level and address. -/
def State.tablesFrom (s : State) (va : Nat) : Nat → Nat → List (Nat × Nat)
  | 0, table => [(0, table + 8 * bits va 20 12)]
  | l + 1, table =>
    let a := table + 8 * bits va (29 + 9 * l) (21 + 9 * l)
    let e := s.le (Space.phys a) 8
    (l + 1, a) :: if bit e 0 && !bit e 1 && !(l == 2 && bit e 2) && isHost (bits e 51 12 * 4096) then s.tablesFrom va l (bits e 51 12 * 4096) else []

/-- The table entries that the walk of an address reads: level and address. -/
def State.tables (s : State) (f va : Nat) : List (Nat × Nat) :=
  let root := bits (s.funcWord f 0) 51 12 * 4096
  if isHost root then s.tablesFrom va 3 root else []

/-- The levels whose entries a walk reads. -/
def State.walkReads (s : State) (f va : Nat) : List Nat :=
  if !isHost (bits (s.funcWord f 0) 51 12 * 4096) then []
  else match s.walk f va with
    | .leaf _ l | .fault _ l | .absent l => [3, 2, 1, 0].filter (l ≤ ·)

/-- Bytes that a leaf of a level maps. -/
def leafSize (level : Nat) : Nat := 4096 * 512 ^ level

/-- The fault of a leaf (R309, R316, R137), in the order of R309: its kind (R380). -/
def State.leafFault (s : State) (f level e : Nat) (write : Bool) : Option Nat :=
  let pa := bits e 51 12 * 4096
  if bits e 7 6 = 3 then some 3
  else if pa % leafSize level ≠ 0 then some 4
  else if !isHost pa && !s.keyUsable (bits e 61 52) f then some 5
  else if (List.range 64).any fun i => s.leaseState i != 0 && bits (s.lease i 0) 21 12 != f
      && s.leaseBase i < pa + leafSize level && pa < s.leaseBase i + s.leaseSize i then some 9
  else if !write && !bit e 3 then some 6
  else if write && !bit e 4 then some 7
  else none

/-- Translate an address for the device's own use: the physical address and the key of its page, or nothing. -/
def State.translate (s : State) (f va : Nat) (write : Bool) : Option (Nat × Option Nat) :=
  match s.walk f va with
  | .leaf e l => match s.leafFault f l e write with
    | none =>
      let pa := bits e 51 12 * 4096 + va % leafSize l
      some (pa, if isHost pa then none else some (s.keyOf (bits e 61 52)))
    | some _ => none
  | _ => none

/-! ### Accesses -/

/-- A step on an access. -/
def onAcc (id : Nat) (f : State → Acc → Act) : Act :=
  .get fun s => match s.acc? id with
    | some a => f s a
    | none => .done

def State.entry? (s : State) (core e : Nat) : Option HEntry := Tab.find? (s.coreSt core).halyard e

/-- A condition at the issuing core; the command's LSID is filled in when it is noted. -/
def Acc.cond (a : Acc) (code ainfo : Nat) : Cond :=
  { code := code, lsid := 0, acore := a.core, ainfo := ainfo % 2 ^ 21, isExit := false }

/-- AINFO of R380: kind, level, element index or chunk number. -/
def Acc.info (a : Acc) (kind level : Nat) : Nat := kind + 16 * level + 64 * (a.elem % 2 ^ 15)

/-- An access ends in a translation fault or a refused page (R380 to R382): not performed, its VA in FLTVA. -/
def faultAcc (a : Acc) (code ainfo : Nat) : Act :=
  .all [putLe (Space.bar a.func 0x98) 8 (a.va % 2 ^ 48), finishAcc a.id 0 [a.cond code ainfo]]

/-- An access is translated by a leaf, or faults on it. -/
def useLeaf (a : Acc) (e level : Nat) : Act :=
  .get fun s =>
    match s.leafFault a.func level e a.write with
    | some kind => faultAcc a 0x0801 (a.info kind level)
    | none =>
      let size := leafSize level
      .all [modAcc a.id fun x => { x with
              pa := bits e 51 12 * 4096 + a.va % size, key := s.keyOf (bits e 61 52), ord := bits e 7 6, cached := bit e 5,
              gtp := bit e 8, state := .ready, since := s.cycle },
            modEntry a.core a.entry fun h => { h with used := h.used ++ [(a.va / size * size, size)] }]

/-- Level of a cached page. -/
def Xlat.level (x : Xlat) : Nat := if x.size = 2 ^ 30 then 2 else if x.size = 2 ^ 21 then 1 else 0

/-- A cached translation: the core's Halyard TLB, then the cluster's shared TLB (R125, R311). -/
def State.cachedXlat (s : State) (core f va : Nat) : Option Xlat :=
  let hit (x : Xlat) : Bool := x.func == f && x.va ≤ va && va < x.va + x.size
  ((s.coreSt core).tlb.find? hit).orElse fun _ => (s.clusterSt (clusterOf core)).tlb.find? hit

/-- Translate an access through the TLBs, or leave it a miss. -/
def lookupAcc (id : Nat) : Act :=
  onAcc id fun s a => match s.cachedXlat a.core a.func a.va with
    | some x => useLeaf a x.entry x.level
    | none => modAcc id fun x => { x with state := .miss, since := s.cycle }

/-- Keep a translation in both TLBs: 64 and 2,048 entries, the oldest replaced. -/
def cacheXlat (core f va e level : Nat) : Act :=
  let size := leafSize level
  let x : Xlat := { func := f, va := va / size * size, size := size, entry := e, pa := bits e 51 12 * 4096 }
  let keep (n : Nat) (l : List Xlat) : List Xlat := (x :: l.filter (· != x)).take n
  .all [modCore core fun c => { c with tlb := keep 64 c.tlb }, modCluster (clusterOf core) fun c => { c with tlb := keep 2048 c.tlb }]

/-! ### Walks (R311) -/

/-- Two accesses miss in one 64 KiB region of one context. -/
def Acc.sameRegion (a b : Acc) : Bool := a.func == b.func && a.va / 65536 == b.va / 65536

def Acc.walking (a : Acc) : Bool := match a.state with | .walk | .walkLost => true | _ => false
def Acc.missing (a : Acc) : Bool := match a.state with | .miss => true | _ => false
def Acc.paging (a : Acc) : Bool := match a.state with | .page _ => true | _ => false

/-- An access that has not been translated yet. -/
def Acc.untranslated (a : Acc) : Bool := a.state == .queued || a.missing || a.walking || a.paging
def Acc.isReady (a : Acc) : Bool := match a.state with | .ready => true | _ => false

/-- The walk that an access waits for has one of the 4 walkers (R311): walks take them in the order in which they started (R404). -/
def State.hasWalker (s : State) (a : Acc) : Bool :=
  a.walking && ((s.accs.filter fun b => clusterOf b.core == clusterOf a.core && b.walking && b.turn.1 < a.turn.1).map (·.turn.1)).eraseDups.length < 4

/-- `WALK_START` (R311, R313, R404): a miss reaches the shared TLB, the misses of one command in ascending element order. It finds its
translation cached meanwhile, joins the outstanding tag, walk or page request of its region, or starts a walk, where a miss entry is free. -/
def execWalkStart (k : Nat) (s : State) : Host.Outcome State Fault Refusal :=
  stepWith (onAcc k fun s a =>
    let cl := clusterOf a.core
    let mine := s.accs.filter fun b => clusterOf b.core == cl && (b.walking || b.paging)
    let first := s.accs.all fun b => !(b.core == a.core && b.entry == a.entry && b.missing) || a.id ≤ b.id
    .when (a.missing && first) (match s.cachedXlat a.core a.func a.va with
      | some x => useLeaf a x.entry x.level
      | none =>
        let n := (s.clusterSt cl).walkSeq
        let same := mine.filter fun b => a.sameRegion b && (b.walking || b.state == .page none)
        let walk := same.find? (·.walking)
        .when (mine.length < 256) (match (s.func a.func).tags.find? fun t => t.va == a.va / 65536 with
          | some t => modAcc k fun x => { x with state := .page (some t.tag), since := s.cycle }
          | none => .all [
              modCluster cl fun c => { c with walkSeq := n + 1 },
              modAcc k fun x => { x with
                state := walk.elim (if same.isEmpty then .walk else .page none) (·.state)
                turn := (same.head?.elim n (·.turn.1), n), since := walk.elim s.cycle (·.since)
                inval := walk.any (·.inval), absent := same.head?.elim 0 (·.absent) },
              match walk with
              | some w => upd fun s => { s with invals := s.invals.map fun v => if v.walks.contains w.id then { v with walks := v.walks ++ [k] } else v }
              | none => .done]))) s

/-! ### Invalidation (R312) -/

/-- A page of a function that an invalidation names. -/
def Inval.names (v : Inval) (f va size : Nat) : Bool := f == v.func && (v.all || (va ≤ v.va && v.va < va + size))

/-- A number of the chunk at the progress pointer of a command, that no other chunk of its core has. -/
def HEntry.chunkId (h : HEntry) : Nat := h.order * 2 ^ 64 + h.prog

/-- An invalidation that met the walk of an access names the page at which the walk has ended (R312). -/
def Inval.meets (v : Inval) (a : Acc) (level : Nat) : Bool :=
  v.walks.contains a.id && v.names a.func (a.va / leafSize level * leafSize level) (leafSize level)

/-- A walk's translation, delivered to an access whose walk an invalidation met, counts for that invalidation where the access's chunk was in
flight then (R312). -/
def deliverInval (a : Acc) (level : Nat) : Act :=
  .get fun s =>
    let c := (a.core, a.entry, (s.entry? a.core a.entry).elim 0 (·.chunkId))
    upd fun s => { s with invals := s.invals.map fun v =>
      { v with walks := v.walks.erase a.id, chunks := if v.meets a level && v.inFlight.contains c then v.chunks ++ [c] else v.chunks } }

/-- The entry by which an address in a run of CONT entries translates (R309): any entry of the run, extended at the leaf size. All
give the same where the run is as it should be; `v` chooses. -/
def State.runEntry (s : State) (f va e level v : Nat) : Nat :=
  let size := leafSize level
  let i := va / size % 16
  let j := v % 16
  match s.walk f (va / (16 * size) * (16 * size) + j * size) with
  | .leaf e' l =>
    if l = level ∧ bit e' 2 = true then
      e' - bits e' 51 12 * 4096 + (bits e' 51 12 * 4096 + 2 ^ 52 + i * size - j * size) % 2 ^ 52 / 4096 * 4096
    else e
  | _ => e

/-- The walk of an access ends at a leaf. A translation that an invalidation has met is kept in no TLB (R312). -/
def endWalk (b : Acc) (e level : Nat) : Act :=
  .get fun s => .all [
    .when (!(b.inval && s.invals.any (·.meets b level)) && (s.leafFault b.func level e b.write).all (5 < ·)) (cacheXlat b.core b.func b.va e level),
    .when b.inval (deliverInval b level), useLeaf b e level]

/-- The accesses that wait for the walk of an access. -/
def State.joined (s : State) (a : Acc) : List Acc :=
  s.accs.filter fun b => b.walking && clusterOf b.core == clusterOf a.core && a.sameRegion b

/-- The table reads of a walk pass the detector of the host link, for the function of the walk (R394, R396): `k` where they succeed, `bad` at the
level of one with an uncorrectable error, `lost` where one finds no response. -/
def readTables (f : Nat) (k : Act) (bad : Nat → Act) (lost : Act) : List (Nat × Nat) → Act
  | [] => k
  | t :: ts => .get fun s => match s.injects 11 0 t.2 with
    | some 1 => .all [useInjection, reportError 11 0 f t.2 false true false, readTables f k bad lost ts]
    | some 2 => .all [useInjection, reportError 11 0 f t.2 true true false, bad t.1]
    | some 4 => .all [useInjection, lost]
    | _ => readTables f k bad lost ts

/-- The walk that an access waits for ends for it: by its own entry, or one of its run (a free choice: log 4). -/
def finishWalk (b : Acc) : Act :=
  .get fun s => match s.walk b.func b.va with
    | .absent level => modAcc b.id fun x => { x with
        state := .page (((s.func b.func).tags.find? fun t => t.va == b.va / 65536).map (·.tag)), absent := level, since := s.cycle }
    | .fault kind level => faultAcc b 0x0801 (b.info kind level)
    | .leaf e level => if bit e 2 then free fun v => endWalk b (s.runEntry b.func b.va e level v) level else endWalk b e level

/-- `WALK_COMPLETE` (R308, R309, R311): the walk of an access ends, and with it those that joined it. -/
def execWalkComplete (k : Nat) (s : State) : Host.Outcome State Fault Refusal :=
  stepWith (onAcc k fun s a =>
    .when (s.hasWalker a && a.state == .walk) (readTables a.func (.each (s.joined a) finishWalk)
      (fun level => .each (s.joined a) fun b => faultAcc b 0x0801 (b.info 8 level))
      (.each (s.joined a) fun b => modAcc b.id fun x => { x with state := .walkLost, since := s.time }) (s.tables a.func a.va))) s

/-! ### Page requests (R313, R381) -/

/-- ORIGIN of R126. -/
def Origin.word (o : Origin) : Nat := o.rid % 512 * 2 ^ 16 + o.lsid % 16 * 2 ^ 12

/-- The core number of Capstan's own accesses, beyond the cores (R350). -/
def capCore : Nat := 256

/-- A tag that is none: the request of Capstan has been refused. -/
def refusedTag : Nat := 256

/-- A miss of the cluster comes before an access in the order of the walks and must end, or write its record, first (R404), whichever
function's it is (log 116). -/
def State.recordHeld (s : State) (a : Acc) : Bool :=
  a.core != capCore && s.accs.any fun b => b.core != capCore && clusterOf b.core == clusterOf a.core
    && (b.turn.1 < a.turn.1 || (b.turn.1 == a.turn.1 && b.turn.2 < a.turn.2))
    && (b.walking || b.state == .page none)

/-- `PAGE_REQUEST_RECORD` (R313, R404): an access whose walk ended at V = 0 joins its region's tag, or takes the lowest free tag and
writes a record where the ring has room, in the order of the walks; every other miss of its region that waits joins the tag. CORE and ORIGIN of a request of Capstan's are open (log 4). -/
def execPageRequestRecord (k : Nat) (s : State) : Host.Outcome State Fault Refusal :=
  stepWith (onAcc k fun s a => match a.state with
    | .page none =>
      let f := s.func a.func
      match f.tags.find? fun t => t.va == a.va / 65536 with
      | some t => modAcc k fun x => { x with state := .page (some t.tag) }
      | none => match (List.range 256).find? fun t => !f.tags.any fun u => u.tag == t with
        | none => .done
        | some t =>
          let record (core org : Nat) : List Byte := leBytes 2 t ++ leBytes 1 a.write.toNat ++ leBytes 1 0 ++ leBytes 2 core ++ leBytes 2 0
            ++ leBytes 8 (a.va % 2 ^ 48) ++ leBytes 8 org ++ leBytes 8 0
          .when (s.ringRoom a.func 0x60 != 0 && !s.recordHeld a) (.all [
            if a.core = capCore then free fun v => ringPut a.func 0x58 0x60 (record (v % 65536) (v / 65536 % 2 ^ 64))
            else ringPut a.func 0x58 0x60 (record a.core ((s.entry? a.core a.entry).elim 0 (·.org.word))),
            modFunc a.func fun x => { x with tags := x.tags ++ [{ tag := t, va := a.va / 65536, level := a.absent }] },
            upd fun s => { s with accs := s.accs.map fun x => if x.state == .page none && x.sameRegion a then { x with state := .page (some t) } else x },
            msix a.func 2])
    | _ => .done) s

/-- Mainstay is in ROM recovery (R401): no step of start-up has been completed. The host link has trained with the physical function alone. -/
def State.recovery (s : State) : Bool := s.bar 0 0x10057 1 == 0

/-- A function in ERROR ignores writes to its BAR0 (R399); in ROM recovery there is no virtual function (R401). -/
def State.barOpen (s : State) (f : Nat) : Bool := (s.func f).tdi != 3 && (f == 0 || !s.recovery)

/-- `PRRESP` (R313, R314, R381): the tag is freed; its accesses walk again, or end as faults. Capstan reads again, or finds its
request refused (R350, R352). -/
def execPrresp (f tag status : Nat) (s : State) : Host.Outcome State Fault Refusal :=
  stepWith (.get fun s =>
    let level := ((s.func f).tags.find? fun t => t.tag == tag).elim 0 (·.level)
    .when (s.barOpen f && (s.func f).tags.any fun t => t.tag == tag) (.all [
      modFunc f fun x => { x with tags := x.tags.filter fun t => t.tag != tag },
      .each (s.accs.filter fun a => a.func == f && a.state == .page (some tag)) fun a =>
        if a.core = capCore then
          (if status % 4 = 0 then upd fun s => { s with accs := s.accs.filter fun x => x.id != a.id }
           else modAcc a.id fun x => { x with state := .page (some refusedTag) })
        else if status % 4 = 0 then modAcc a.id fun x => { x with state := .miss, since := s.cycle }
        else faultAcc a 0x0802 (a.info 0 level)])) s

/-- `TLBINV` (R312): translations are removed from every TLB at once; chunks that used one, and the walks of the function under way, are
noted. -/
def execTlbinv (all : Bool) (f va : Nat) (s : State) : Host.Outcome State Fault Refusal :=
  stepWith (.get fun s =>
    let v : Inval := { func := f, all := all, va := va / 4096 * 4096 % 2 ^ 48, inFlight := [], chunks := [], walks := [] }
    let keep (x : Xlat) : Bool := !v.names x.func x.va x.size
    let busy := s.cores.flatMap fun c => (c.2.halyard.filter (·.2.chunk)).map fun e => (c.1, e)
    let chunks := busy.filter fun c => c.2.2.used.any fun u => v.names c.2.2.org.func u.1 u.2
    let id (c : Nat × Nat × HEntry) : Nat × Nat × Nat := (c.1, c.2.1, c.2.2.chunkId)
    let walks := s.accs.filter fun a => a.walking && a.func == f
    .all [upd fun s => { s with
            cores := s.cores.map fun c => (c.1, { c.2 with tlb := c.2.tlb.filter keep }),
            clusters := s.clusters.map fun c => (c.1, { c.2 with tlb := c.2.tlb.filter keep }),
            accs := s.accs.map fun a => if walks.any (fun w => w.id == a.id) then { a with inval := true } else a,
            invals := s.invals ++ [{ v with inFlight := busy.map id, chunks := chunks.map id, walks := walks.map (·.id) }] },
          putBits (Space.bar 0 0x10020) 4 0 0 1]) s

/-- What an invalidation waits for has come about. -/
def State.invalDone (s : State) (v : Inval) : Bool :=
  v.chunks.all (fun c => (s.entry? c.1 c.2.1).all fun h => !h.chunk || h.chunkId != c.2.2)
    && v.walks.all fun w => (s.acc? w).all fun a => !a.walking

/-- `TLBINV_DONE` (R312): BUSY falls once the conditions of every request have held. -/
def execTlbinvDone (s : State) : Host.Outcome State Fault Refusal :=
  stepWith (.get fun s => .when (s.invals.all s.invalDone)
    (.all [upd fun s => { s with invals := [] }, putBits (Space.bar 0 0x10020) 4 0 0 0])) s

/-! ### Chunks (R123) -/

/-- A part of a chunk that one access moves. -/
structure Piece where
  elem : Nat
  va : Nat
  size : Nat
  loc : Nat
  deriving DecidableEq, Repr

/-- Cut `n` bytes at an address into beats that do not cross a multiple of `unit`: offset, length. -/
def beats (unit : Nat) : Nat → Nat → Nat → Nat → List (Nat × Nat)
  | 0, _, _, _ => []
  | fuel + 1, a, off, n =>
    if n = 0 then []
    else
      let l := min n (unit - a % unit)
      (off, l) :: beats unit fuel (a + l) (off + l) (n - l)

/-- Bytes of the chunk at the progress pointer. -/
def HEntry.chunkBytes (h : HEntry) : Nat := min 65536 (h.len - h.prog)

/-- The last chunk of its command. -/
def HEntry.lastChunk (h : HEntry) : Bool := h.len ≤ h.prog + 65536

/-- Element size of a listed command (R291). -/
def HEntry.elemSize (h : HEntry) : Nat := match h.etype with | 2 => 2 | 4 => 1 | 13 => 8 | _ => 4

def HEntry.toCores (h : HEntry) : Bool := (h.kind == 2 && bit h.dst 63) || h.kind == 5
def HEntry.reads (h : HEntry) : Bool := h.kind == 1 || h.kind == 3 || h.kind == 6

/-- The pieces of a chunk between the core and global memory (R121, R291, R314). -/
def State.pieces (s : State) (core : Nat) (h : HEntry) : List Piece :=
  let n := h.chunkBytes
  let chunk := h.prog / 65536
  match h.kind with
  | 1 => (beats 64 1025 (h.src + h.prog) h.prog n).map fun b =>
      { elem := chunk, va := (h.src + b.1) % 2 ^ 48, size := b.2, loc := h.dst % 2 ^ 32 + b.1 }
  | 2 => (beats 64 1025 (h.dst + h.prog) h.prog n).map fun b =>
      { elem := chunk, va := (h.dst + b.1) % 2 ^ 48, size := b.2, loc := h.src % 2 ^ 32 + b.1 }
  | 6 => (beats 128 513 (h.src + h.prog) h.prog n).map fun b =>
      { elem := chunk, va := (h.src + b.1) % 2 ^ 48 / 128 * 128, size := 128, loc := 0 }
  | _ =>
    let w := h.elemSize
    (List.range (n / w)).map fun i =>
      let e := h.prog / w + i
      let a := h.aux + 4 * e
      let idx := if s.guarded (Space.loc core a) then 0 else s.loc core a 4
      { elem := e, va := ((if h.kind = 3 then h.src else h.dst) + idx * w) % 2 ^ 48, size := w,
        loc := (if h.kind = 3 then h.dst else h.src) % 2 ^ 32 + w * e }

/-- The dispatch number that fences and releases compare: the row's, or that of the OPA command it serves. -/
def State.entrySeq (s : State) (core : Nat) (h : HEntry) : Nat :=
  match h.opa with
  | some q => (s.opaEntry core q).elim 0 (·.org.seq)
  | none => h.org.seq

/-! ### What releases, fences and acquires order (R144 to R148) -/

/-- The narrowest scope that includes a core, for a row of another core (R145); the row itself is in every one. -/
def coreScope (core dst : Nat) : Nat :=
  if dst = core then 0 else if clusterOf dst = clusterOf core then 2 else if dieOf dst = dieOf core then 3 else 4

/-- The narrowest scope that includes the location of a virtual address (R145): stacks 0 to 3 and the first 32 GiB of
the LPDDR node belong to die A, the others to die B (R15, R119, R135). -/
def State.vaScope (s : State) (core f va : Nat) : Nat :=
  match s.walk f va with
  | .leaf e l =>
    let pa := bits e 51 12 * 4096 + va % leafSize l
    if isHost pa || isPeer pa then 5 else if (isHbm pa && stackOf pa / 4 == dieOf core) || (isLpddr pa && (pa - 2 ^ 40) / 2 ^ 35 == dieOf core) then 3 else 4
  | _ => 3

/-- The order kind of the page of an address, as it translates now. -/
def State.pageOrder (s : State) (core f va : Nat) : Option Nat :=
  match s.cachedXlat core f va with
  | some x => some (bits x.entry 7 6)
  | none => match s.walk f va with
    | .leaf e _ => some (bits e 7 6)
    | _ => none

/-- What is left of a command writes to a place that a scope includes. -/
def State.writesWithin (s : State) (core : Nat) (h : HEntry) (scope : Nat) : Bool :=
  let left := h.len - h.prog
  if h.reads then h.kind != 6
  else if h.toCores then (s.farCores core h.dst).any fun c => coreScope core c ≤ scope
  else 3 ≤ scope && (5 ≤ scope ||
    (if h.kind = 2 then (List.range (left / 4096 + 2)).any fun i =>
        s.vaScope core h.org.func ((h.dst + min (h.prog + 4096 * i) (h.len - 1)) % 2 ^ 48) ≤ scope
     else (List.range (left / h.elemSize)).any fun i =>
        let e := h.prog / h.elemSize + i
        s.vaScope core h.org.func ((h.dst + s.loc core (h.aux + 4 * e) 4 * h.elemSize) % 2 ^ 48) ≤ scope))

/-- What is left of a command reads: global memory, or beats of its local source. -/
def State.readsLeft (s : State) (core e : Nat) (h : HEntry) : Bool :=
  h.reads || !(h.chunk && h.lastChunk) || s.accs.any fun a => a.core == core && a.entry == e && a.unread

/-- An access of a row, dispatched before a number, or one of the other copy's that serves it too (R363), that has not been performed for the observers of a scope, or with `reads` has a read
that is not complete: a command of the row's own queue, a matrix or plate command or window store of a queue, a message of the mesh, or an
access held for a row (R146, R147). -/
def State.unfinished (s : State) (core rid n scope : Nat) (reads : Bool) : Bool :=
  let mine (o : Origin) : Bool := (o.core == core && o.rid == rid && o.seq < n)
    || o.twin.any fun t => t.1 == core && t.2.1 == rid && t.2.2 < n
  ((s.coreSt core).halyard.any fun h => h.2.org.rid == rid && !h.2.rsv && s.entrySeq core h.2 < n
      && (s.writesWithin core h.2 scope || (reads && s.readsLeft core h.1 h.2)))
    || (s.cores.any fun c => c.2.opa.any fun e => mine e.org && (reads || coreScope core c.1 ≤ scope))
    || (s.mesh.any fun m => mine m.org && (match m.pay with
          | .store _ _ _ none | .opa _ | .signal .. | .lineStore .. => coreScope core m.dst ≤ scope
          | .arrive .. => m.org.seq != 0 && coreScope core m.dst ≤ scope
          | .atomic _ none => reads || coreScope core m.dst ≤ scope
          | .post .. => 5 ≤ scope
          | _ => false))
    || s.rows.any fun r => r.2.held.any fun h => match h with
          | .store o _ .remote | .store o _ .own => mine o && coreScope core (r.1 / 512) ≤ scope
          | .atomic o _ .remote => mine o && (reads || coreScope core (r.1 / 512) ≤ scope)
          | _ => false

/-- The accesses of a row before a number are performed for a scope, and with `reads` have read. -/
def State.rowDone (s : State) (core rid n scope : Nat) (reads : Bool) : Bool := !s.unfinished core rid n scope reads

/-- The acquire read of a command is outstanding (R146): its first read, of global memory or of its local source. That of a UO page orders
nothing (R148). -/
def State.acquiring (s : State) (core e : Nat) (h : HEntry) : Bool :=
  h.acq && !h.rsv && h.prog == 0
    && (!h.chunk || s.accs.any fun a => a.core == core && a.entry == e && a.lead && (!a.write || a.unread))
    && (h.toCores || ((s.pieces core h).head?).all fun p => s.pageOrder core h.org.func p.va != some 2)

/-- Two commands may reach the same global bytes. -/
def HEntry.meets (h x : HEntry) : Bool :=
  let far (h : HEntry) : Option (Nat × Nat) := match h.kind with
    | 1 | 6 => some (h.src % 2 ^ 48, h.len)
    | 2 => some (h.dst % 2 ^ 48, h.len)
    | _ => none
  !h.toCores && !x.toCores && match far h, far x with
    | some a, some b => overlap a.1 a.2 b.1 b.2
    | _, _ => true

/-- A fence of a row holds what the row dispatched at a number from its own on (R147). -/
def State.fenceHolds (s : State) (core rid seq : Nat) : Bool :=
  (s.row? core rid).any fun r => r.fences.any fun f => f.1 ≤ seq && s.unfinished core rid f.1 f.2 true

/-- A fence or an earlier acquire of its row holds a command (R146, R147). The row is an observer of every scope: a fence also orders a
command behind an earlier one of the row that reaches the same bytes. -/
def State.entryHeld (s : State) (core : Nat) (h : HEntry) : Bool :=
  let q := (s.coreSt core).halyard.filter fun x => x.2.org.rid == h.org.rid && x.2.order < h.order && !x.2.rsv
  s.fenceHolds core h.org.rid (s.entrySeq core h)
    || ((s.row? core h.org.rid).any fun r => r.fences.any fun f => f.1 ≤ s.entrySeq core h
          && q.any fun x => s.entrySeq core x.2 < f.1 && x.2.meets h)
    || q.any fun x => s.acquiring core x.1 x.2

/-- Some access of a command's next chunk goes to a UO page, which no fence or acquire orders (R144). -/
def State.anyUo (s : State) (core : Nat) (h : HEntry) : Bool :=
  !h.toCores && (s.pieces core h).any fun p => s.pageOrder core h.org.func p.va == some 2

/-- An access waits for a fence or an acquire; one to a UO page does not. -/
def State.accHeld (s : State) (a : Acc) : Bool :=
  (s.entry? a.core a.entry).any fun h => s.entryHeld a.core h
    && (h.toCores || s.pageOrder a.core a.func a.va != some 2)

/-- A command's next chunk may start (R123); none does from a core's stop cycle on, but for a draining row's (R103, R356). -/
def State.chunkReady (s : State) (core : Nat) (h : HEntry) : Bool :=
  let q := (s.coreSt core).halyard
  h.kind != 0 && !h.rsv && !h.unstarted && !h.chunk && !h.stopped && (h.reads || !s.stepHeld { h.org with seq := s.entrySeq core h }) && ((s.coreSt core).stopping.isNone || s.draining core h.org.rid)
    && (!s.entryHeld core h || s.anyUo core h)
    && (h.inFlight || ((q.filter (·.2.inFlight)).length < 8
          && q.all fun x => x.2.rsv || x.2.unstarted || x.2.inFlight || h.order ≤ x.2.order || s.entryHeld core x.2))

/-- Source bytes of a command in its core: tagged guard bytes read as 0 (R377). -/
def State.sourceBytes (s : State) (core a n : Nat) : List (Byte × Bool) :=
  (List.range n).map fun i =>
    let k := Space.loc core (a + i)
    if s.guarded k then (0, false) else (s.byte k, s.poisoned k)

/-- The condition of a touched guard granule. -/
def State.guardCond (s : State) (core a n : Nat) : List Cond :=
  (((List.range n).map (a + ·)).find? fun b => s.guarded (Space.loc core b)).toList.map fun b =>
    { code := 0x0805, lsid := 0, acore := core, ainfo := b, isExit := false }

/-- A fresh access of a chunk. -/
def Acc.fresh (id core e : Nat) (h : HEntry) (p : Piece) (write : Bool) : Acc :=
  { id := id, core := core, entry := e, func := h.org.func, elem := p.elem, va := p.va, size := p.size, write := write,
    loc := p.loc, pa := 0, key := 0, ord := 0, cached := false, gtp := false, state := .queued, since := 0, urgent := false,
    deadline := none, inval := false, absent := 0, turn := (0, 0), lead := false, last := false, old := false, gone := false, slack := 0, target := core, unread := write,
    data := [], bad := none, epoch := 0, left := 0, got := 0 }

/-- A row's gang is paired: the gang, and whether the row is of copy B (R363). -/
def State.pairOf (s : State) (core rid : Nat) : Option (Gang × Bool) :=
  match s.gang? (s.gangId core rid) with
  | some g => if g.paired then some (g, !(g.first ≤ core && core < g.first + g.groups * g.cores)) else none
  | none => none

/-- The cores that receive what a command sends to peer cores: of its own gang those of its own copy (R363). -/
def State.targets (s : State) (core : Nat) (h : HEntry) : List Nat :=
  match s.pairOf core h.org.rid with
  | some (g, b) => (s.farCores core h.dst).map (g.inCopy b)
  | none => s.farCores core h.dst

/-- A chunk for peer cores: an access for each beat, or element of HSADD, and member (R292). `va` and `pa` are the address and length of
the destination beat that it belongs to. -/
def meshChunk (core e : Nat) (h : HEntry) : Act :=
  .get fun s =>
    let dst := h.dst % 2 ^ 21
    let n := h.chunkBytes
    let parts := if h.kind = 5 then (List.range (n / 4)).map fun i => (h.prog + 4 * i, 4)
      else beats 64 1025 (dst + h.prog) h.prog n
    let jobs := parts.flatMap fun p => (s.targets core h).map fun c => (c, p)
    .all [upd fun s => { s with
            nextAcc := s.nextAcc + jobs.length
            accs := s.accs ++ jobs.zipIdx.map fun j =>
              let off := j.1.2.1
              let lo := max ((dst + off) / 64 * 64) (dst + h.prog)
              { Acc.fresh (s.nextAcc + j.2) core e h { elem := h.prog / 65536, va := lo, size := j.1.2.2, loc := h.src % 2 ^ 21 + off } true with
                pa := min ((dst + off) / 64 * 64 + 64) (dst + h.prog + n) - lo, target := j.1.1, state := .mesh
                lead := h.prog == 0 && off == 0, last := h.lastChunk && off + j.1.2.2 == h.len } }]

/-- The next access of each chunk is presented for translation, one in a cycle, in ascending element order (R404; log 136). -/
def presentAccs : Act :=
  .get fun s =>
    let q := s.accs.filter fun a => a.state == .queued
    .each (q.filter fun a => q.all fun b => !(b.core == a.core && b.entry == a.entry) || a.id ≤ b.id) fun a => lookupAcc a.id

/-- A chunk between the core and global memory: the index list of a listed command is read (R291, R394), and its first access is presented for
translation in the cycle in which it starts. -/
def globalChunk (core e : Nat) (h : HEntry) : Act :=
  .all [.when (h.kind == 3 || h.kind == 4) (injectBytes core
      ((List.range (4 * (h.chunkBytes / h.elemSize))).map (h.aux + 4 * (h.prog / h.elemSize) + ·)) h.org.func), .get fun s =>
    let ps := s.pieces core h
    let new := ps.zipIdx.map fun p =>
      { Acc.fresh (s.nextAcc + p.2) core e h p.1 (!h.reads) with
        lead := h.prog == 0 && p.2 == 0, last := h.lastChunk && p.2 + 1 == ps.length }
    .all [.when (h.kind == 3 || h.kind == 4) (noteConds core e (s.guardCond core (h.aux + 4 * (h.prog / h.elemSize)) (4 * ps.length))),
          upd fun s => { s with nextAcc := s.nextAcc + new.length, accs := s.accs ++ new },
          .each new.head?.toList fun a => lookupAcc a.id]]

/-- The message that holds a chunk's write data until its partner agrees: its place in the mesh (R363). -/
def State.chunkMsg (s : State) (core e : Nat) : Option (Nat × Msg) :=
  (s.mesh.zipIdx.find? fun m => m.1.src == core && m.1.pay == .chunk e).map fun m => (m.2, m.1)

/-- The chunk of a command starts. An ACQ of die scope or wider advances the cluster's get-cache epoch before the first read
(R125, R128). -/
def startChunk (core entry : Nat) (h : HEntry) : Act :=
  .get fun s => .all [
    .when (h.acq && 3 ≤ h.ascope && h.prog == 0)
      (modCluster (clusterOf core) fun k => { k with epoch := (k.epoch + 1) % 2 ^ 32 }),
    modEntry core entry fun x => { x with
      inFlight := true, chunk := true, deadline := s.time / 64 + (s.coreSt core).hyctl, conds := [], used := []
      counted := if x.opa.isSome && x.kind == 1 then x.counted else [] },
    if h.toCores then meshChunk core entry h else globalChunk core entry h]

/-- The number of a chunk among those of a row (R363). -/
def State.chunkNumber (s : State) (core : Nat) (h : HEntry) : Nat := 2 ^ 16 * s.entrySeq core h + h.prog / 65536

/-- The other copy's entry that one is linked with: its core, its index and itself (R363). -/
def State.linked (s : State) (core entry : Nat) (h : HEntry) : Option (Nat × Nat × HEntry) :=
  h.pairEntry.bind fun p => ((s.entry? p.1 p.2).filter fun x => x.pairEntry == some (core, entry)).map fun x => (p.1, p.2, x)

/-- Copy A performs a chunk that it has started for copy B's command too (R363). -/
def State.served (s : State) (core entry : Nat) (h : HEntry) : Bool := h.await && (s.linked core entry h).any fun p => p.2.2.chunk

/-- A chunk of write data that agreed with its partner starts. To the cores of its gang each copy sends its own; elsewhere copy A, once copy B's
command could start it too, performs it for both (R363). -/
def startPaired (core entry : Nat) (h : HEntry) : Act :=
  .get fun s => match s.linked core entry h with
    | none => .all [(s.chunkMsg core entry).elim .done fun m => dropMsg m.1,
        modEntry core entry fun y => { y with await := false, pairEntry := none }, startChunk core entry h]
    | some (c, e, x) => .when (!h.await && s.chunkReady c x) (.all [
        upd fun s => { s with mesh := s.mesh.filter fun m =>
          !((m.src == core && m.pay == .chunk entry) || (m.src == c && m.pay == .chunk e)) },
        modEntry c e fun y => { y with inFlight := true, chunk := true, conds := [], used := [] },
        startChunk core entry h])

/-- `CHUNK_START` (R123): the next chunk of a command starts. One that writes, of a paired gang, first waits for its partner
(R363). -/
def execChunkStart (core entry : Nat) (s : State) : Host.Outcome State Fault Refusal :=
  stepWith (.get fun s => match s.entry? core entry with
    | none => .done
    | some h =>
      .when (s.chunkReady core h) (
        if (s.pairOf core h.org.rid).isNone || h.reads then startChunk core entry h
        else match s.chunkMsg core entry with
          | none => sendPaired h.org { src := core, dst := core, org := h.org, pay := .chunk entry } (some (4 * s.chunkNumber core h + 1))
          | some (_, m) => .when m.pair.isNone (startPaired core entry h))) s

/-- A command is done: its conditions go with its acknowledgement, and its entry is freed (R122, R143, R344). -/
def finishEntry (core e : Nat) : Act :=
  .get fun s => match s.entry? core e with
    | none => .done
    | some h => .all [freeEntry core e, .each h.late fun c => acknowledge core h.org (some c) false,
                      .when (h.org.seq != 0) (acknowledge core h.org none true)]

/-- The bytes of a chunk are counted into the command's barriers (R124): by each receiving core, then at the sending end, for a
group the least that a member received. An RBAR of an HSND to global memory, which has no receiving end, counts what is written there (log 149). -/
def countChunk (core : Nat) (h : HEntry) : Act :=
  .get fun s =>
    let members := if h.toCores then s.targets core h else [core]
    let cnt (c : Nat) : Nat := (Tab.find? h.counted c).getD 0
    let form (c : Nat) : Nat := if h.toCores && farGroup h.dst then c * 2 ^ 24 + h.rbar % 2 ^ 24 else h.rbar
    let n := 512 * s.chunkNumber core h
    .all [.when (h.rbar != 0) (.each members.zipIdx fun c => countBytes h.org c.1 (form c.1) (cnt c.1) (4 * (n + c.2) + 2)),
          .when (h.sbar != 0) (countBytes h.org core h.sbar (members.foldl (fun m c => min m (cnt c)) (2 ^ 16)) (4 * n + 3))]

/-- The last chunk of a transfer of a tile is complete, or the transfer stops with its chunk (R96, R269): a fill has its spill, and its
bytes are counted where it is verified (R348). -/
def endTransfer (core : Nat) (h : HEntry) (q : Nat) : Act :=
  .get fun s => match s.opaEntry core q with
    | none => .done
    | some e =>
      if h.stopped && !h.lastChunk then dropOpa core e
      else .when (h.kind == 1) (.all [
        verifyFill core e e.src e.srcMarks (s.cycle + 1),
        .when (s.spillOk e.src (s.tileTenant core e.tile)) (countChunk core h)])

/-- A chunk that copy A has performed for both copies is done for copy B's command too, with the bytes that were written (R363). -/
def releaseLinked (core entry : Nat) (h : HEntry) : Act :=
  .get fun s => match s.linked core entry h with
    | none => .done
    | some (c, e, _) => .when (!h.await) (.all [
        modEntry c e fun y => { y with await := false, pairEntry := none, counted := [(c, (Tab.find? h.counted core).getD 0)] },
        modEntry core entry fun y => { y with pairEntry := none }])

/-- `CHUNK_COMPLETE` (R124): every access of the chunk is done. A command that a release write stops ends with its chunk (R96). -/
def execChunkComplete (core entry : Nat) (s : State) : Host.Outcome State Fault Refusal :=
  stepWith (.get fun s => match s.entry? core entry with
    | none => .done
    | some h =>
      .when (h.chunk && !s.served core entry h && !(s.accs.any fun a => a.core == core && a.entry == entry)) (.all [
        releaseLinked core entry h,
        .when (!(h.opa.isSome && h.kind == 1)) (countChunk core h),
        if h.lastChunk || h.stopped then
          .all [finishEntry core entry, h.opa.elim .done (endTransfer core h)]
        else modEntry core entry fun x => { x with
          prog := x.prog + 65536, chunk := false, inFlight := x.inFlight && (s.coreSt core).stopping.isNone }])) s

/-! ### The get-cache (R127 to R129) -/

/-- The line of an address that a read may hit. -/
def State.cacheLine (s : State) (cluster pa key : Nat) : Option CacheLine :=
  let c := s.clusterSt cluster
  c.lines.find? fun l => l.pa == pa / 128 * 128 && l.key == key && l.epoch == c.epoch

/-- Fill a line; a prefetched line that is evicted unread, by others or by the line of a newer epoch, counts in GCUNUSED. 16,384 lines, the oldest
evicted. A fill of a line that is there brings its data anew, and it stays a prefetched line (R129). -/
def fillLine (cluster : Nat) (l : CacheLine) : Act :=
  modCluster cluster fun c =>
    let same := c.lines.filter fun x => x.pa == l.pa && x.key == l.key
    let rest := c.lines.filter fun x => !(x.pa == l.pa && x.key == l.key)
    let kin := same.filter (·.epoch == l.epoch)
    let line := { l with prefetched := l.prefetched || kin.any (·.prefetched), used := kin.any (·.used) }
    let gone := same.filter (·.epoch != l.epoch) ++ (if 16384 ≤ rest.length then rest.take (rest.length - 16383) else [])
    let kept := if 16384 ≤ rest.length then rest.drop (rest.length - 16383) else rest
    { c with lines := kept ++ [line], fills := if l.prefetched then min (c.fills + 1) 0xFFFFFFFF else c.fills,
             unused := min (c.unused + (gone.filter fun x => x.prefetched && !x.used).length) 0xFFFFFFFF }

/-- The first read of a prefetched line counts in GCUSED. -/
def useLine (cluster : Nat) (l : CacheLine) : Act :=
  .when (l.prefetched && !l.used) (modCluster cluster fun c =>
    { c with used := min (c.used + 1) 0xFFFFFFFF, lines := c.lines.map fun x => if x == l then { x with used := true } else x })

/-! ### Data of an access -/

/-- The key of an access's path: none to host memory. The cipher's tweak is the physical address (R310), which data behind a lease does
not keep: there it is part of the key. -/
def Acc.path (a : Acc) : Option Nat :=
  if isHost a.pa then none else if isPeer a.pa then some (2 ^ 46 * (a.key + 1) + a.pa / 64) else some a.key

/-- Replace bytes of a list from an offset. -/
def splice (l : List Byte) (off : Nat) (bs : List Byte) : List Byte :=
  (l ++ List.replicate (off + bs.length - l.length) 0).take off ++ bs ++ l.drop (off + bs.length)

/-- The release write of a command may be performed (R146): the accesses of its row before it are, for its scope, those of the other copy's row
where it serves that too (R363), and every other write of its own. Under UO nothing holds it (R148). -/
def State.released (s : State) (a : Acc) : Bool :=
  (s.entry? a.core a.entry).all fun h => !(a.last && h.rel) || a.ord == 2
    || (s.rowDone a.core h.org.rid (s.entrySeq a.core h) h.rscope false
        && (s.linked a.core a.entry h).all (fun p => s.rowDone p.1 p.2.2.org.rid (s.entrySeq p.1 p.2.2) p.2.2.rscope false)
        && !(s.accs.any fun b => b.core == a.core && b.entry == a.entry && !b.last))

/-- Bytes read reach the core, once a release and the inbound buffers allow: local memory, or the source of a fill (R269). A prefetch
delivers nothing. -/
def landRead (a : Acc) (bs : List (Byte × Bool)) : Act :=
  .get fun s => match s.entry? a.core a.entry with
    | none => finishAcc a.id 0 []
    | some h =>
      let lo := h.dst % 2 ^ 32 + h.prog
      let ps := bs.zipIdx.map fun b : (Byte × Bool) × Nat => ({ addr := a.loc + b.2, byte := b.1.1, poison := b.1.2 } : PByte)
      if h.kind = 6 then finishAcc a.id 0 []
      else match h.opa with
        | some q => .all [modOpa a.core q fun e => { e with
            src := splice e.src a.loc (bs.map (·.1))
            srcMarks := e.srcMarks ++ (bs.zipIdx.filter (·.1.2)).map fun b => a.loc + b.2 }, finishAcc a.id a.size []]
        | none =>
          if s.released a && s.hasRoom a.core ps then engineStore a.core h.org lo (lo + h.chunkBytes) ps (.acc a.id) (placeAcc a.id)
          else modAcc a.id fun x => { x with state := .land bs }

/-- The data of a write as it stands, the local address of its first poisoned byte, and the condition of a guard granule (R375, R377). -/
def State.writeData (s : State) (a : Acc) : List (Byte × Bool) × Option Nat × List Cond :=
  match ((s.entry? a.core a.entry).bind (·.opa)).bind (s.opaEntry a.core) with
  | some e =>
    let word (i : Nat) : Nat := tileAddr e.tile + (a.loc + i - 64) * (if e.cmd.lossy then 2 else 1)
    let bs := ((e.src.drop a.loc).take a.size).zipIdx.map fun b =>
      (b.1, 64 ≤ a.loc + b.2 && s.poisoned (Space.loc a.core (word b.2)))
    (bs, (bs.zipIdx.find? (·.1.2)).map fun b => word b.2, [])
  | none =>
    let bs := s.sourceBytes a.core a.loc a.size
    (bs, (bs.zipIdx.find? (·.1.2)).map fun b => a.loc + b.2, s.guardCond a.core a.loc a.size)

/-- The message of an access to a peer core, with the data read for it (R292); the release write is held (R146). -/
def sendBeat (a : Acc) (h : HEntry) : Act :=
  .get fun s =>
    let dest := h.dst % 2 ^ 21 + (a.loc - h.src % 2 ^ 21)
    let hold := h.rel && a.last
    let pay : Payload := if h.kind = 5 then
        .atomic { cas := false, fn := if h.etype = 6 ∨ h.etype = 7 then 7 else 0, ty := typeOf h.etype, addr := dest,
                  b := leNat (a.data.map (·.1)), c := 0, poison := a.data.any (·.2) } (some a.id)
      else .store dest a.size (a.data.zipIdx.map fun b => { addr := dest + b.2, byte := b.1.1, poison := b.1.2 }) (some a.id)
    send { src := a.core, dst := a.target, org := h.org, pay := pay, held := hold, waits := if hold then s.entrySeq a.core h else 0 }

/-- The local source of an access is read (R141). -/
def readSource (id : Nat) : Act :=
  .get fun s => match s.acc? id with
    | none => .done
    | some a =>
      let d := s.writeData a
      .all [modAcc id fun x => { x with unread := false, data := d.1, bad := d.2.1 }, noteConds a.core a.entry d.2.2,
            match a.state, s.entry? a.core a.entry with
            | .mesh, some h => sendBeat { a with data := d.1 } h
            | _, _ => .done]

/-- The accesses whose sources make up the next beat that a core's queue reads (R123): of the command after the one read last, round robin,
in ascending order, once for all members of a group (R141); the elements of a listed command and of HSADD in beats of 64 bytes. -/
def State.nextBeat (s : State) (core : Nat) : List Acc :=
  let first (e : Nat) : Option Acc := (s.accs.find? fun a => a.core == core && a.entry == e && a.unread).filter fun a => !s.accHeld a
  let es := (List.range 64).filter fun e => (first e).isSome
  match ((es.find? ((s.coreSt core).beat < ·)).orElse fun _ => es.head?).bind first with
  | none => []
  | some a =>
    let h := s.entry? a.core a.entry
    let place (b : Acc) : Nat := (b.loc - h.elim 0 fun h => h.src % 2 ^ 32) / 64
    let listed := h.any fun h => h.kind == 4 || h.kind == 5
    a :: s.accs.filter fun b => b.core == core && b.entry == a.entry && b.unread && b.id != a.id && (if listed then place b == place a else b.loc == a.loc)

/-- A core's queue reads a beat of 64 bytes at most in a cycle; whether it does in this one is open (log 2). -/
def readBeat (core : Nat) : Act :=
  .get fun s => .all [
    upd fun s => { s with pickCtr := s.pickCtr + 1 },
    .when (Config.pick s.pickCtr % 2 == 1) (.all [
      match (s.nextBeat core).head? with
      | some a => .when ((s.entry? core a.entry).any (·.opa.isNone))
          (injectBytes core ((s.nextBeat core).flatMap fun b => (List.range b.size).map (b.loc + ·)) a.func)
      | none => .done,
      .each (s.nextBeat core) fun a => readSource a.id,
      match s.nextBeat core with
      | a :: _ => modCore core fun c => { c with beat := a.entry }
      | [] => .done])]

/-- A read of a G page: its line of 128 bytes fills the get-cache, unless a mark of poison keeps it out, and its data reaches the core (R127). A line
that came through a lease in two halves has the epoch of the first (R128). -/
def landLine (a : Acc) (line data : List (Byte × Bool)) : Act :=
  .get fun s => .all [
    .when (a.cached && !line.any (·.2)) (fillLine (clusterOf a.core) {
      pa := a.pa / 128 * 128, key := a.key, epoch := if isPeer a.pa then a.epoch else (s.clusterSt (clusterOf a.core)).epoch, data := line.map (·.1),
      prefetched := (s.entry? a.core a.entry).any (fun h => h.kind == 6), used := false }),
    landRead a data]

/-- Perform an access at its home, a key of `mem`. A read of a G page fills the get-cache with its line; poison never goes to host memory or
through a lease (R375). -/
def performAt (home : Nat) (a : Acc) : Act :=
  .get fun s =>
    if a.write then
      if (isHost a.pa || isPeer a.pa) && a.data.any (·.2) then finishAcc a.id 0 [a.cond 0x0804 (a.bad.getD 0)]
      else .all [unitWrite a.path home a.data, finishAcc a.id a.size []]
    else if isPeer a.pa then landRead a ((List.range a.size).map fun i => (s.unitByte a.path (home + i), s.poisoned (home + i)))
    else landLine a (s.physRead a.path a.old (a.pa / 128 * 128) 128) (s.physRead a.path a.old a.pa a.size)

/-- Perform an access in the device's own memories or the host's. -/
def performAcc (a : Acc) : Act := performAt (Space.phys a.pa) a

/-! ### Leaving the queue (R144 to R148) -/

/-- The order of an access in its core's queue. -/
def State.accOrder (s : State) (a : Acc) : Nat := (s.entry? a.core a.entry).elim 0 (·.order)

/-- The order rules let an access be performed. -/
def State.orderOk (s : State) (a : Acc) : Bool :=
  match s.entry? a.core a.entry with
  | none => true
  | some h =>
    let q := (s.coreSt a.core).halyard
    let before (b : Acc) : Bool := b.core == a.core && (s.accOrder b < h.order || (s.accOrder b == h.order && b.id < a.id))
    let seen (b : Acc) : Bool := !b.untranslated
    (a.ord != 0
        || (s.accs.all (fun b => !before b || (s.entry? b.core b.entry).any (·.toCores) || (seen b && b.ord != 0))
            && q.all fun x => x.2.rsv || x.2.toCores || h.order ≤ x.2.order || (x.2.chunk && x.2.lastChunk && !x.2.await)))
      && (a.ord == 2
        || ((a.write || a.lead || !s.acquiring a.core a.entry h)
            && (!a.write || s.released a) && !s.accHeld a))

/-- Words that a captured write touches (R315). -/
def Acc.words (a : Acc) : List Nat := (List.range ((a.va + a.size - 1) / 8 + 1 - a.va / 8)).map fun i => (a.va / 8 + i) * 8

/-- A write to a guest table page is captured (R315): one record for each word, once the ring has room for them. -/
def capture (a : Acc) : Act :=
  .get fun s =>
    .when (a.words.length ≤ s.ringRoom 0 0x10040) (.all [
      .each a.words fun w =>
        let at' (i : Nat) : Option Byte := if a.va ≤ w + i ∧ w + i < a.va + a.size then (a.data[w + i - a.va]?).map (·.1) else none
        let mask := (List.range 8).foldl (fun m i => m + if (at' i).isSome then 2 ^ i else 0) 0
        .all [ringPut 0 0x10038 0x10040 (leBytes 2 a.func ++ leBytes 1 mask ++ leBytes 5 0 ++ leBytes 8 w
                ++ leBytes 8 (a.pa - a.va % 4096 + w % 4096) ++ (List.range 8).map fun i => (at' i).getD 0),
              msix 0 6],
      finishAcc a.id a.size []])

/-- Requests in a tenant's admission queue at a stack (R131, R378). -/
def State.admitting (s : State) (stack f : Nat) : Nat :=
  (s.accs.filter fun a => a.func == f && a.state == .admission stack).length

/-- Replays of one flit in a row (R387). -/
def State.replayCount (s : State) (p : Nat) : Nat := (Tab.find? s.replays p).getD 0

/-- The ports of the route of a remote device that are up, in ascending order (R322, R387). -/
def State.routePorts (s : State) (rdev : Nat) : List Nat :=
  match (List.range 64).find? fun i =>
      let e := s.bar 0 (0x13800 + 16 * i) 2
      bit e 15 && e % 4096 == rdev with
  | none => []
  | some i => (List.range 72).filter fun p => bit (s.bar 0 (0x13800 + 16 * i + 3) 9) p && bit (s.bar 0 (0x29000 + 16 * p + 8) 8) 63

/-- A read of a G page takes the whole line of 128 bytes, half after half (R127, R321): `data` is the first. -/
def Acc.fills (a : Acc) : Bool := a.cached && !a.write

/-- The address whose 64-byte unit an access asks for next through a lease. -/
def Acc.unitPa (a : Acc) : Nat := if a.fills then a.pa / 128 * 128 + (if a.data.isEmpty then 0 else 64) else a.pa

/-- The remote unit of 64 bytes that an access reaches through a lease (R136): remote device and address. -/
def State.remoteUnit (s : State) (a : Acc) : Nat × Nat :=
  let i := (s.leaseOf a.pa).getD 0
  (bits (s.lease i 0) 59 48, bits (s.lease i 1) 51 21 * 2 ^ 21 + (a.unitPa / 64 * 64 - s.leaseBase i))

/-- A write of less than a unit reads it first, since every request is of 64 bytes (R321) and the cipher's unit too (R310). `got` of its
access is 1 once it has. -/
def Acc.readsFirst (a : Acc) : Bool := a.write && a.size != 64 && a.got == 0

/-- Send a request through a lease on a port: a read or a write of an aligned 64-byte unit, a write with the ciphertext of the unit as it
will be (R137, R321). Its answer, which the lessor gives, is open (a free value: log 11), unless an injection keeps it away (R394). -/
def sendFabric (a : Acc) (port : Nat) (resent : Bool) : Act :=
  .get fun s =>
    let i := (s.leaseOf a.pa).getD 0
    let u := s.remoteUnit a
    let home := Space.lease u.1 u.2
    let plain := splice ((List.range 64).map fun i => s.unitByte a.path (home + i)) (a.pa % 64) (a.data.map (·.1))
    let write := a.write && !a.readsFirst
    let cipher := (List.range 64).map fun i => Config.noise a.path 0 (home + i) plain
    let p : Packet :=
      { port := port, tag := s.lease i 0 % 4096, write := write, addr := u.2, size := 64, data := if write then cipher else [],
        rdev := u.1, response := none, refused := 0 }
    .all [modAcc a.id fun x => { x with state := .fabric port resent, since := s.time },
          upd fun s => { s with sent := p :: s.sent },
          if s.injects 10 port a.pa = some 4 then useInjection
          else free fun v => upd fun s => { s with packets := s.packets ++ [{ p with response := some a.id, refused := v % 4 }] }]

/-- A request is sent by a port of its device's route that is up, and waits while that port retrains (R322, R387). -/
def sendByPort (a : Acc) (resent : Bool) : Act :=
  .get fun s =>
    let ports := s.routePorts ((s.leaseOf a.pa).elim 0 fun i => bits (s.lease i 0) 59 48)
    match ports[a.unitPa / 64 % max ports.length 1]? with
    | none => finishAcc a.id 0 [a.cond 0x0803 4]
    | some p => if 16 ≤ s.replayCount p then modAcc a.id fun x => { x with state := .portWait resent } else sendFabric a p resent

/-- A request leaves through a lease (R137, R384, R386, R408). -/
def issuePeer (a : Acc) : Act :=
  .get fun s => match s.leaseOf a.pa with
    | none => finishAcc a.id 0 [a.cond 0x0807 (64 * (a.elem % 2 ^ 15))]
    | some i =>
      if s.leaseState i = 3 ∨ (s.leaseState i = 2 ∧ s.lease i 3 ≤ s.time) then finishAcc a.id 0 [a.cond 0x0806 i]
      else if a.write && a.data.any (·.2) then finishAcc a.id 0 [a.cond 0x0804 (a.bad.getD 0)]
      else sendByPort a false

/-- The requests that wait for a port try again (R387). -/
def retryPorts : Act :=
  .get fun s => .each s.accs fun a => match a.state with
    | .portWait resent => if resent then sendByPort a true else issuePeer a
    | _ => .done

/-- A translated access leaves its queue for its home, when the order rules and the queues allow. One that no command dispatched is a
context-save request, urgent from its issue (R130). A read of a G page may be served by the get-cache. An address of no range holds nothing: a write changes nothing, a read is open (log 4). -/
def issueAcc (id : Nat) : Act :=
  onAcc id fun s a =>
    .when (a.isReady && !a.unread && s.orderOk a) (
      let h := s.entry? a.core a.entry
      let cl := clusterOf a.core
      let prefetch := h.any fun h => h.kind == 6
      if a.write && a.gtp && a.func != 0 then capture a
      else if prefetch && !a.cached then finishAcc id 0 []
      else match (if a.cached && !a.write then s.cacheLine cl a.pa a.key else none) with
        | some l =>
          if s.injects 6 cl a.pa = some 1 ∨ s.injects 6 cl a.pa = some 2 then
            .all [useInjection, reportError 6 cl 0 a.pa (s.injects 6 cl a.pa == some 2) true true, modCluster cl fun c => { c with lines := c.lines.filter (· != l) }]
          else if prefetch then finishAcc id 0 []
          else .all [useLine cl l, landRead a (if isHbm a.pa && s.deadRegions.contains (regionOf a.pa) then List.replicate a.size (0, false)
            else ((l.data.drop (a.pa % 128)).take a.size).map fun b => (b, false))]
        | none =>
          let late := a.cached && !a.write && !prefetch && s.accs.any fun b =>
            clusterOf b.core == cl && b.pa / 128 == a.pa / 128 && b.key == a.key && b.id != a.id
              && (s.entry? b.core b.entry).any (fun h => h.kind == 6) && !(b.untranslated || b.isReady)
          let go (k : Act) : Act := .all [.when late (modCluster cl fun c => { c with late := min (c.late + 1) 0xFFFFFFFF }), k]
          if isHost a.pa then
            (if a.write then performAcc a
             else
               let lost := s.injects 11 0 a.pa == some 4
               .all [.when lost useInjection, go (modAcc id fun x => { x with state := .host lost, since := s.time })])
          else if isHbm a.pa && isLpddr (s.homePa a.pa) then go (modAcc id fun x => { x with state := .lpddr, since := s.cycle })
          else if isHbm a.pa then
            .when (s.admitting (stackOf a.pa) a.func < 256) (go (modAcc id fun x => { x with
              state := .admission (stackOf a.pa), since := s.cycle,
              deadline := h.elim (some (s.time / 64)) fun h => if h.dl then some h.deadline else none, urgent := h.isNone }))
          else if isLpddr a.pa then go (modAcc id fun x => { x with state := .lpddr, since := s.cycle })
          else if isPeer a.pa then go (issuePeer a)
          else if a.write then finishAcc id a.size []
          else free fun v => landRead a ((List.range a.size).map fun i => (BitVec.ofNat 8 (v / 256 ^ i), false)))

/-! ### Host reads (R383) -/

/-- `HOST_READ_COMPLETION` (R383): 0 with the data, 1 UR, 2 CA, 3 with poisoned data. A table read that fails, at whichever level of
those that the walk reads, is a translation fault of kind 8 of each access that waits for it (R380); one with poisoned data fails too (log
137). An injection at the host link corrects, or poisons, the data of a read (R394). -/
def execHostReadCompletion (k status : Nat) (s : State) : Host.Outcome State Fault Refusal :=
  stepWith (onAcc k fun s a => match a.state with
    | .host true => .done
    | .host false => match status with
      | 0 => match s.injects 11 0 a.pa with
        | some 1 => .all [useInjection, reportError 11 0 a.func a.pa false true false, performAcc a]
        | some 2 => .all [useInjection, reportError 11 0 a.func a.pa true true false,
            landRead a ((s.physRead none false a.pa a.size).map fun b => (b.1, true))]
        | _ => performAcc a
      | 3 => landRead a ((s.physRead none false a.pa a.size).map fun b => (b.1, true))
      | _ => finishAcc k 0 [a.cond 0x0803 5]
    | .walk =>
      let ls := s.walkReads a.func a.va
      .when (s.hasWalker a && !ls.isEmpty && 1 ≤ status && status ≤ 3) (free fun v =>
        .each (s.joined a) fun b => faultAcc b 0x0801 (b.info 8 (ls.getD (v % ls.length) 3)))
    | _ => .done) s

/-- `HOST_READ_TIMEOUT` (R383): no completion within 50 ms. A table read without a response has failed then (R380). -/
def execHostReadTimeout (k : Nat) (s : State) : Host.Outcome State Fault Refusal :=
  stepWith (onAcc k fun s a => .when (a.since + 50000000 ≤ s.time) (match a.state with
    | .host _ => finishAcc k 0 [a.cond 0x0803 6]
    | .walkLost =>
      let ls := s.walkReads a.func a.va
      free fun v => .each (s.joined a) fun b => faultAcc b 0x0801 (b.info 8 (ls.getD (v % max ls.length 1) 3))
    | _ => .done)) s

end Sys2Proof.Machine
end

