-- ==== Sys2Proof/Machine/Hbm.lean ====
section
/-!
DEFINITION. The HBM stacks and the LPDDR node (R130 to R135, R371, R376, R378, R379, R390, R393): admission, service, deadline
class, refresh elision, scrubs, remaps and the quarantine of a stack.
-/

namespace Sys2Proof.Machine

/-! ### Banks -/

/-- The HBM bank of an address, over all stacks, and its HBM bank row. -/
def bankOfPa (pa : Nat) : Nat := 64 * stackOf pa + Config.hbmBank pa % 64
def rowOfPa (pa : Nat) : Nat := Config.hbmRow pa % 2 ^ 32

/-- One number for an HBM bank row. -/
def bankRow (bank row : Nat) : Nat := bank * 2 ^ 32 + row

/-- A word of HBMSTAT (R379). -/
def hbmstat (stack off : Nat) : Nat := Space.bar 0 (0x10100 + 16 * stack + off)

/-- The bank that an access waits in. -/
def Acc.banked (a : Acc) : Option Nat := match a.state with | .bank s b => some (64 * s + b) | _ => none
def Acc.waitsFor (a : Acc) (bank : Nat) : Bool := (match a.state with | .admission _ => true | _ => false) && bankOfPa a.pa == bank

/-- An access hits the open HBM bank row of its bank. -/
def State.rowHit (s : State) (a : Acc) : Bool := Tab.find? s.openRows (bankOfPa a.pa) == some (rowOfPa a.pa)

/-- The last tenant admitted to a bank and the length of its streak (R131). -/
def State.streak (s : State) (bank : Nat) : Option (Nat × Nat) :=
  (s.streaks.find? fun t => t.1 == bank).map fun t => t.2

/-- The request of a tenant's admission queue that a bank may take: of those that its core's share and the streak rule let go the one created first; R131
gives no order within a queue (log 147). -/
def State.candidate (s : State) (bank f : Nat) : Option Acc :=
  let waiting := s.accs.filter fun a => a.waitsFor bank
  let mine (core : Nat) : Nat := (s.accs.filter fun a => a.banked == some bank && a.core == core).length
  let throttled (a : Acc) : Bool := (s.streak bank).any (fun t => t.1 == f && 16 ≤ t.2) && s.rowHit a && waiting.any fun b => b.func != f
  (waiting.filter fun a => a.func == f && mine a.core < 48 && !throttled a).head?

/-- The request that a bank admits next: round robin over the tenants, from the one after the last admitted (R131). -/
def State.nextAdmitted (s : State) (bank : Nat) : Option Acc :=
  let fs := ((s.accs.filter fun a => a.waitsFor bank).map (·.func)).eraseDups
  let last := (s.streak bank).elim 0 (·.1)
  ((fs.filterMap fun f => (s.candidate bank f).map fun a => ((f + 1024 - last - 1) % 1024, a)).foldl
    (fun best p => match best with | some b => if p.1 < b.1 then some p else some b | none => some p) none).map (·.2)

/-- `HBM_ADMIT` (R131): the bank's next request leaves its admission queue while the bank queue has room. -/
def execHbmAdmit (k : Nat) (s : State) : Host.Outcome State Fault Refusal :=
  stepWith (onAcc k fun s a => match a.state with
    | .admission st =>
      let bank := bankOfPa a.pa
      .when ((s.accs.filter fun b => b.banked == some bank).length < 64 && (s.nextAdmitted bank).any (fun b => b.id == k)) (
        let hit := s.rowHit a
        let n := match s.streak bank with
          | some (t, n) => if t = a.func ∧ hit then n + 1 else if hit then 1 else 0
          | none => if hit then 1 else 0
        .all [modAcc k fun x => { x with state := .bank st (bank % 64), since := s.cycle },
              upd fun s => { s with streaks := (bank, a.func, n) :: s.streaks.filter fun t => t.1 != bank }])
    | _ => .done) s

/-- `DEADLINE_URGENT` (R130). -/
def execDeadlineUrgent (k : Nat) (s : State) : Host.Outcome State Fault Refusal :=
  stepWith (onAcc k fun s a => .when (a.deadline.any fun d => d ≤ s.time / 64 + 4) (modAcc k fun x => { x with urgent := true })) s

/-- The bound of the requests that wait in a bank, but for one that is served, is extended (R132, R378). -/
def extendBound (bank n : Nat) (served : Option Nat) : Act :=
  upd fun s => { s with accs := s.accs.map fun x => if x.banked == some bank && some x.id != served then { x with slack := x.slack + n } else x }

/-- A bank may serve an access next (R130, R132): the most urgent of its urgent requests, else its oldest, or a hit while the
oldest is younger than 1,024 cycles. A bank row that is being copied waits (R390). -/
def State.servable (s : State) (a : Acc) (bank : Nat) : Bool :=
  let q := s.accs.filter fun b => b.banked == some bank
  let age (b : Acc) : List Nat := [b.since, b.id]
  let urgents := q.filter (·.urgent)
  !(s.remapping.any fun r => 64 * r.stack + r.bank == bank && r.row == rowOfPa a.pa)
    && (if urgents.isEmpty then
          match leastBy age q with
          | some o => o.id == a.id || (s.rowHit a && s.cycle < o.since + 1024)
          | none => false
        else (leastBy (fun b : Acc => b.deadline.getD 0 :: age b) urgents).any fun b => b.id == a.id)

/-! ### Regions (R133, R134, R393) -/

/-- Slots of the re-home area. -/
def rehomeSlots : Nat := 195584

/-- The quarantined stacks of QUAR (R392). -/
def State.quarantined (s : State) (stack : Nat) : Bool := bit (s.bar 0 0x10070 1) stack

/-- A region becomes live again: under a quarantine it takes the next free slot for each quarantined stack. It goes on with
whether it could. -/
def reviveRegion (region : Nat) (k : Bool → Act) : Act :=
  .get fun s =>
    let ts := (List.range 8).filter fun t => s.quarantined t && !s.rehome.any fun r => r.1 == t && r.2.1 == region
    if s.rehome.length + ts.length ≤ rehomeSlots then
      .all [upd fun s => { s with
              deadRegions := s.deadRegions.filter (· != region), filling := insertSorted region s.filling,
              rehome := s.rehome ++ ts.zipIdx.map fun t => (t.1, region, s.rehome.length + t.2) }, k true]
    else k false

/-- Zero `n` bytes at a key of `mem`, marks and keys included (R134, R372). -/
def zeroAt (a n : Nat) : Act :=
  .all [wipe a n, upd fun s => { s with
    poison := s.poison.filter fun g => !(a ≤ g && g < a + n), physKey := s.physKey.filter fun u => !(a ≤ u.1 && u.1 < a + n) }]

/-- Zero a region and its slots (R134, R393). Its old contents stay for the requests admitted before it was marked not live. -/
def zeroRegion (region : Nat) : Act :=
  .all [upd fun s => { s with
          accs := s.accs.map fun x =>
            if x.old && regionOf x.pa == region then
              { x with gone := true, data := if x.write || x.gone then x.data else s.physRead x.path true x.pa x.size }
            else x },
        zeroAt (Space.phys (region * 2 ^ 21)) (2 ^ 21),
        .get fun s => .each (s.rehome.filter (·.2.1 == region)) fun r => zeroAt (Space.phys (slotAt r.2.2)) (2 ^ 18)]

/-- An access to the old contents of a region that has been filled since (R134): a write reaches the old contents alone, which the old reads
behind it see by its key. -/
def performGone (a : Acc) : Act :=
  if !a.write then landRead a a.data
  else .all [
    upd fun s =>
      let byteOf (x : Acc) (b : (Byte × Bool) × Nat) : Byte × Bool :=
        let i := x.pa + b.2
        match (if a.pa ≤ i then a.data[i - a.pa]? else none) with
        | some d => (if a.key = x.key then d.1 else Config.noise (some a.key) x.key (Space.phys i) (a.data.map (·.1)), d.2)
        | none => b.1
      { s with
        accs := s.accs.map fun x => if x.gone && !x.write then { x with data := x.data.zipIdx.map (byteOf x) } else x },
    finishAcc a.id a.size []]

/-- An HBM bank row lies wholly in regions that are not live (R376). -/
def State.rowDead (s : State) (row : Nat) : Bool := !(Config.rowRegions row).isEmpty && (Config.rowRegions row).all s.deadRegions.contains

/-- The key of a mark lies in a region of a range, at its own place or in a slot (R393). -/
def State.markIn (s : State) (inside : Nat → Bool) (g : Nat) : Bool :=
  (Space.phys 0 ≤ g && isHbm (g - Space.phys 0) && inside (regionOf (g - Space.phys 0)))
    || s.rehome.any fun r => inside r.2.1 && Space.phys (slotAt r.2.2) ≤ g && g < Space.phys (slotAt r.2.2) + 2 ^ 18

/-- `REFMARK_NOT_LIVE` (R133, R376): the regions stop being live and lose their poison marks, and the error counts of bank rows that lie in
such regions alone; requests that the base die has admitted are served on the old contents (R134). It arrives at every bank queue in one
step (log 148). -/
def execRefmarkNotLive (region count : Nat) (s : State) : Host.Outcome State Fault Refusal :=
  stepWith (upd fun s =>
    let inside (m : Nat) : Bool := region ≤ m && m ≤ region + count && m < 262144
    let dead := (((List.range (count + 1)).map (region + ·)).filter (· < 262144)).foldl (fun l m => insertSorted m l) s.deadRegions
    { s with
      deadRegions := dead
      poison := s.poison.filter fun g => !s.markIn inside g
      rowErrors := s.rowErrors.filter fun e => !{ s with deadRegions := dead }.rowDead e.1
      accs := s.accs.map fun a => if (a.banked.isSome || a.state == .fill (regionOf a.pa)) && inside (regionOf a.pa)
          && !s.deadRegions.contains (regionOf a.pa)
        then { a with old := true } else a }) s

/-- `REFMARK_LIVE` (R133, R134): regions that were not live become live and fill with zeros; one without a free slot in a
quarantine stays as it is (R393). -/
def execRefmarkLive (region count : Nat) (s : State) : Host.Outcome State Fault Refusal :=
  stepWith (.get fun s => .each (((List.range (count + 1)).map (region + ·)).filter s.deadRegions.contains) fun m =>
    reviveRegion m fun ok => .when ok (zeroRegion m)) s

/-- The queue of an HBM access that the base die has admitted: its bank's, or that of the LPDDR node (R393). -/
def State.queueOf (s : State) (a : Acc) : AccState :=
  if isLpddr (s.homePa a.pa) then .lpddr else .bank (stackOf a.pa) (bankOfPa a.pa % 64)

/-- `ZERO_FILL_COMPLETE` (R134): the fill ends and the accesses that wait for it proceed. -/
def execZeroFillComplete (region : Nat) (s : State) : Host.Outcome State Fault Refusal :=
  stepWith (upd fun s => { s with
    filling := s.filling.filter (· != region)
    accs := s.accs.map fun a => if a.state == .fill region then { a with state := s.queueOf a } else a }) s

/-! ### Service -/

/-- An error met at an HBM access counts on its stack too (R379) and may call for a remap of its bank row (R390): any
uncorrectable one, or four correctable ones between two patrol scrubs. -/
def hbmError (pa : Nat) (uncorrectable : Bool) : Act :=
  .get fun s =>
    let st := stackOf pa
    let key := bankRow (bankOfPa pa) (rowOfPa pa)
    let n := (Tab.find? s.rowErrors key).getD 0 + 1
    let remap : Act := upd fun s => { s with work := .op (.hbmRowRemap st (bankOfPa pa % 64) (rowOfPa pa)) :: s.work }
    if uncorrectable then .all [putBits (hbmstat st 8) 8 31 16 (min (s.le (hbmstat st 10) 2 + 1) 0xFFFF), remap]
    else .all [bump (hbmstat st 12), upd fun s => { s with rowErrors := Tab.set s.rowErrors key (n % 4) }, .when (n == 4) remap]

/-- The access opens its bank row; the activation is counted, and 4,096 of one row in a refresh interval refresh its neighbours (R378; the
intervals are counted from time 0: log 93). -/
def activate (a : Acc) : Act :=
  .get fun s =>
    let bank := bankOfPa a.pa
    let key := bankRow bank (rowOfPa a.pa)
    let span := s.time / max Config.refreshInterval 1
    let counts := if span = s.actSpan then s.activations else []
    let n := (Tab.find? counts key).getD 0 + 1
    .when (!s.rowHit a) (.all [
      upd fun s => { s with openRows := Tab.set s.openRows bank (rowOfPa a.pa), activations := Tab.set counts key n, actSpan := span },
      .when (n == 4096) (upd fun s => { s with
        work := .op (.neighbourRefresh (bank / 64) (bank % 64) (rowOfPa a.pa)) :: s.work })])

/-- An HBM access is served, where its region lets it be (R134): one in a region that fills waits; a write to a region that is not live makes it
live first. Of a quarantined stack a write that finds no slot is not performed (R393). -/
def inRegion (a : Acc) (k : Act) : Act :=
  .get fun s =>
    let m := regionOf a.pa
    if s.filling.contains m && !a.old then modAcc a.id fun x => { x with state := .fill m }
    else if a.write && s.deadRegions.contains m && !a.old then
      reviveRegion m fun ok =>
        if ok then .all [zeroRegion m, modAcc a.id fun x => { x with state := .fill m }]
        else finishAcc a.id 0 [a.cond 0x0803 7]
    else if a.write && s.quarantined (stackOf a.pa) && s.homePa a.pa == a.pa && !a.old then finishAcc a.id 0 [a.cond 0x0803 7]
    else k

/-- `HBM_SERVE` (R132, R134, R378): the bank serves a request. In a region that is not live no error is met (R376). -/
def execHbmServe (k : Nat) (s : State) : Host.Outcome State Fault Refusal :=
  stepWith (onAcc k fun s a => match a.banked with
    | none => .done
    | some bank =>
      .when (s.servable a bank) (inRegion a (.all [
        activate a,
        .when (a.deadline.any (· < s.time / 64)) (bump (hbmstat (bank / 64) 4)),
        .when (!s.deadRegions.contains (regionOf a.pa) && !a.old) (
          injectArray 7 (bank / 64) a.pa (s.homeKey (Space.phys a.pa)) a.func a.pa false fun hit ue => .when hit (hbmError a.pa ue)),
        .when a.urgent (extendBound bank 96 (some k)),
        if a.gone then performGone a else performAcc a]))) s

/-- Cycles of a copy of a bank row so far that lie in the wait of a request (R378). -/
def State.copyWait (s : State) (r : RowCopy) (a : Acc) : Nat := s.cycle - max r.cycle a.since

/-- The last cycle in which a bank may serve an ordinary request (R132), with the extensions of R378. -/
def State.bound (s : State) (a : Acc) : Nat :=
  a.since + 6144 + a.slack + ((s.remapping.filter fun r => a.banked == some (64 * r.stack + r.bank)).map fun r => s.copyWait r a).sum

/-- A bank's ordinary request comes to the end of its bound, within the 64 services that its queue may hold: the bank serves what it serves
next (R132). -/
def State.serveDue (s : State) : List Nat :=
  ((s.accs.filter fun a => !a.urgent && a.banked.isSome && s.bound a ≤ s.cycle + 64).filterMap (·.banked)).eraseDups.filterMap fun bank =>
    ((s.accs.filter fun a => a.banked == some bank && s.servable a bank).head?).map (·.id)

/-- `LPDDR_SERVE` (R135, R393): each die's controller serves its requests in age order, those redirected to a slot among them. -/
def execLpddrServe (k : Nat) (s : State) : Host.Outcome State Fault Refusal :=
  stepWith (onAcc k fun s a =>
    let die (b : Acc) : Nat := (s.homePa b.pa - 2 ^ 40) / 2 ^ 35
    let q := s.accs.filter fun b => b.state == .lpddr && die b == die a
    let dead := isHbm a.pa && (s.deadRegions.contains (regionOf a.pa) || a.old)
    let serve : Act := .all [
      .when (!dead) (injectArray 8 ((s.homePa a.pa - 2 ^ 40) / 2 ^ 34) a.pa (s.homeKey (Space.phys a.pa)) a.func a.pa false fun _ _ => .done),
      if a.gone then performGone a else performAcc a]
    .when (a.state == .lpddr && (leastBy (fun b : Acc => [b.since, b.id]) q).any fun b => b.id == k)
      (if isHbm a.pa then inRegion a serve else serve)) s

/-- The detector of a physical address (R397): unit and index. -/
def State.detector (s : State) (pa : Nat) : Nat × Nat :=
  let h := s.homePa pa
  if isHbm h then (7, stackOf h) else if isLpddr h then (8, (h - 2 ^ 40) / 2 ^ 34) else (11, 0)

/-- The device reads `n` bytes at a physical address for a function (R396): each unit of 64 bytes may meet an error at its detector (R394). Host
memory has no granule to mark. -/
def deviceRead (f pa n : Nat) : Act :=
  .get fun s => .when (bit (s.bar 0 0x10068 8) 63) (.each (List.range ((pa + n + 63) / 64 - pa / 64)) fun i => .get fun s =>
    let u := (pa / 64 + i) * 64
    let d := s.detector u
    match s.injects d.1 d.2 u with
    | some 1 | some 2 =>
      let ue := s.injects d.1 d.2 u == some 2
      .when (!(isHbm u && s.deadRegions.contains (regionOf u))) (.all [
        useInjection, .when (ue && d.1 != 11) (poisonAt (s.homeKey (Space.phys u))), reportError d.1 d.2 f u ue true false,
        .when (d.1 == 7) (hbmError u ue)])
    | _ => .done)

/-! ### Scrub, neighbour refresh and remap -/

/-- The address of the i-th granule that a stack holds of a region (R119). -/
def stackPart (stack region i : Nat) : Nat :=
  region * 2 ^ 21 + i / 32 * 2 ^ 14 + Nat.xor stack (bits region 3 1) * 2 ^ 11 + 64 * (i % 32)

/-- `PATROL_SCRUB` (R371): the base die reads every live region of its stack; errors that it finds are those that an injection
makes it report (R394), in the order of the granules it reads. The counts of R390 start anew. -/
def execPatrolScrub (stack : Nat) (s : State) : Host.Outcome State Fault Refusal :=
  stepWith (.get fun s =>
    let w := s.bar 0 0x10068 8
    let m := w % 2 ^ 40
    let live (a : Nat) : Bool := isHbm a && stackOf a == stack && !s.deadRegions.contains (regionOf a) && !isLpddr (s.homePa a)
    let page := ((List.range 64).map fun i => m * 4096 + 64 * i).filter live
    let region := (List.range 262144).find? fun r => live (stackPart stack r 0)
    let as := if m = 0 then region.elim [] fun r => (List.range 255).map (stackPart stack r) else page
    .all [.each (as.take (bits w 47 40)) fun a =>
            injectArray 7 stack a (Space.phys a) 0 a true fun hit ue => .when hit (hbmError a ue),
          upd fun s => { s with rowErrors := s.rowErrors.filter fun e => e.1 / 2 ^ 38 != stack }]) s

/-- `NEIGHBOUR_REFRESH` (R378): counted in NREF; the row's activations are counted anew, and the bound of what waits in the bank is extended
by the 160 cycles that the refresh may hold it. -/
def execNeighbourRefresh (stack bank row : Nat) (s : State) : Host.Outcome State Fault Refusal :=
  stepWith (.all [bump (hbmstat stack 0), extendBound (64 * stack + bank % 64) 160 none,
    upd fun s => { s with activations := Tab.erase s.activations (bankRow (64 * stack + bank % 64) row) }]) s

/-- Spare HBM bank rows left on a stack: those it had less those taken, which the memory of SPROWS counts (log 12). Spares lie in every HBM
bank (R30); whether one serves its own bank alone is open, and here any bank of the stack takes it (log 102). -/
def State.spareLeft (s : State) (stack : Nat) : Nat := Config.spareRows stack % 65536 - s.le (hbmstat stack 8) 2

/-- The details of repair records of HBM: below 2^16 a pseudo-channel; a quarantine candidate (log 138); a bank row. -/
def quarDetail : Nat := 2 ^ 16
def rowDetail : Nat := 2 ^ 17

/-- A remap is counted in its pseudo-channel (R390): the sixteenth, and each further one after a candidate was discarded, makes the channel a
repair candidate while the one spare of the stack (R30) is left; else a record says that none is, and the stack is a quarantine candidate. -/
def countChannel (stack bank : Nat) : Act :=
  .get fun s =>
    let chan := Config.hbmChannel (64 * stack + bank % 64) % 2 ^ 16
    let key := stack * 2 ^ 16 + chan
    let n := (Tab.find? s.chanRemaps key).getD 0 + 1
    let mine := (s.repairs ++ s.candidates).filter fun r => r.unit == 7 && r.index == stack
    .all [upd fun s => { s with chanRemaps := Tab.set s.chanRemaps key n },
          .when (16 ≤ n && !mine.any fun r => r.detail == chan || r.detail == quarDetail) (
            if mine.isEmpty then addCandidate 7 stack chan chan
            else .all [errorRecord 7 5 false true 0 stack 0 chan, addCandidate 7 stack quarDetail stack])]

/-- `HBM_ROW_REMAP` (R390, R376): the row is copied to a spare, and its accesses wait; with no spare left it stays in use; one that lies wholly
in regions that are not live is not remapped. -/
def execHbmRowRemap (stack bank row : Nat) (s : State) : Host.Outcome State Fault Refusal :=
  stepWith (.get fun s =>
    let id := bankRow (64 * stack + bank % 64) row
    if s.rowDead id then .done
    else if s.spareLeft stack = 0 then errorRecord 7 5 false true 0 stack 0 id
    else .all [putLe (hbmstat stack 8) 2 (s.le (hbmstat stack 8) 2 + 1),
               upd fun s => { s with
                 remapping := s.remapping ++ [{ stack := stack, bank := bank % 64, row := row, cycle := s.cycle, time := s.time }]
                 applied := s.applied ++ [{ unit := 7, index := stack, detail := rowDetail, part := id }] },
               errorRecord 7 4 false true 0 stack 0 id, countChannel stack bank]) s

/-- A copy is of a bank row. -/
def RowCopy.isOf (r : RowCopy) (stack bank row : Nat) : Bool := r.stack == stack && r.bank == bank % 64 && r.row == row

/-- `REMAP_COPY_COMPLETE` (R390): the accesses that wait on the row proceed; the bound of what waits in the bank is extended by as much of the
copy as fell in its wait (R378). -/
def execRemapCopyComplete (stack bank row : Nat) (s : State) : Host.Outcome State Fault Refusal :=
  stepWith (upd fun s =>
    let ended := s.remapping.filter (·.isOf stack bank row)
    { s with
      remapping := s.remapping.filter (!·.isOf stack bank row)
      accs := s.accs.map fun x => if x.banked == some (64 * stack + bank % 64) then
          { x with slack := x.slack + (ended.map fun r => s.copyWait r x).sum } else x }) s

/-! ### Quarantine (R392, R393) -/

/-- Live regions. -/
def State.liveRegions (s : State) : Nat := 262144 - s.deadRegions.length

/-- An export covers a stack: an entry that is active or revoking exports whole regions, and every region lies on every stack. -/
def State.exported (s : State) : Bool :=
  (List.range 64).any fun i => let st := bits (s.export' i 0) 63 62
    st == 1 || st == 2

/-- A stack's part of regions is copied to slots from `first` on, with its marks and keys (R393); the regions have been given their slots. -/
def moveStack (stack first n : Nat) : Act :=
  .get fun s =>
    let mine (k : Nat) : Bool := Space.phys 0 ≤ k && isHbm (k - Space.phys 0) && stackOf (k - Space.phys 0) == stack && s.homeKey k != k
    .all [zeroAt (Space.phys (slotAt first)) (n * 2 ^ 18),
          .each (s.mem.filter fun c => mine c.1) fun c => put (s.homeKey c.1) [c.2],
          upd fun t => { t with
            poison := (s.poison.filter mine).foldl (fun l g => insertSorted (s.homeKey g) l) t.poison
            physKey := (s.physKey.filter fun u => mine u.1).foldl (fun l u => Tab.set l (s.homeKey u.1) u.2) t.physKey }]

/-- `QUARANTINE` (R392, R393): refused with a live gang, an export or too many live regions, and, beside a quarantined stack, where the free
slots do not hold the regions or a copy is going on (log 92); else the stack's part of each live
region is copied into the next free slot, in ascending region order, and its granules are redirected there. -/
def execQuarantine (stack : Nat) (s : State) : Host.Outcome State Fault Refusal :=
  stepWith (.get fun s =>
    let t := stack % 8
    let regions := if s.quarantined t then [] else (List.range 262144).filter fun m => !s.deadRegions.contains m
    if !s.gangs.isEmpty || s.exported || rehomeSlots < s.liveRegions || s.quarantine.isSome
        || (!s.rehome.isEmpty && rehomeSlots < s.rehome.length + regions.length) then
      putBits (Space.bar 0 0x10070) 8 60 60 1
    else .all [putBits (Space.bar 0 0x10070) 8 61 61 1,
            putBits (Space.bar 0 0x10070) 8 t t 1,
            upd fun s => { s with
              quarantine := some t
              rehome := s.rehome ++ regions.zipIdx.map fun m => (t, m.1, s.rehome.length + m.2) },
            moveStack t s.rehome.length regions.length]) s

/-- `QUARANTINE_COMPLETE` (R393). -/
def execQuarantineComplete (s : State) : Host.Outcome State Fault Refusal :=
  stepWith (.get fun s => match s.quarantine with
    | none => .done
    | some t => .all [putBits (Space.bar 0 0x10070) 8 61 61 0, upd fun s => { s with quarantine := none },
                      errorRecord 7 11 false true 0 t 0 0]) s

end Sys2Proof.Machine
end

