-- ==== Sys2Proof/Machine/Fabric.lean ====
section
/-!
DEFINITION. Leases, exports and the scale-up fabric (R136, R137, R321 to R324, R384 to R389).
-/

namespace Sys2Proof.Machine

/-! ### Leases and exports -/

/-- The function whose lease it is is locked (R319): the physical function's writes to its entries are not performed. -/
def State.locked (s : State) (f : Nat) : Bool := f != 0 && (s.func f).tdi != 0

/-- `LEASE_REVOKE` (R137). -/
def execLeaseRevoke (i : Nat) (s : State) : Host.Outcome State Fault Refusal :=
  stepWith (.get fun s => .when (i < 64 && !s.locked (bits (s.lease i 0) 21 12))
    (putBits (Space.bar 0 (0x12800 + 32 * i)) 8 63 62 2)) s

/-- A request of a lease is outstanding; one that is to be sent again is (R387). -/
def State.leaseBusy (s : State) (i : Nat) : Bool :=
  s.accs.any fun a => (match a.state with | .fabric .. | .portWait true => true | _ => false) && s.leaseOf a.pa == some i

/-- `LEASE_DEADLINE` (R384). -/
def execLeaseDeadline (i : Nat) (s : State) : Host.Outcome State Fault Refusal :=
  stepWith (.get fun s => .when (i < 64 && s.leaseState i == 2 && s.lease i 3 ≤ s.time && !s.leaseBusy i)
    (putBits (Space.bar 0 (0x12800 + 32 * i)) 8 63 62 3)) s

/-- `EXPORT_DEADLINE` (R385). -/
def execExportDeadline (i : Nat) (s : State) : Host.Outcome State Fault Refusal :=
  stepWith (.get fun s => .when (i < 64 && bits (s.export' i 0) 63 62 == 2 && s.export' i 3 ≤ s.time)
    (putBits (Space.bar 0 (0x13000 + 32 * i)) 8 63 62 3)) s

/-! ### Ports (R387, R389) -/

/-- Fields of PORTSTAT entry p. -/
def portKey (p off : Nat) : Nat := Space.bar 0 (0x29000 + 16 * p + off)
def State.portUp (s : State) (p : Nat) : Bool := bit (s.le (portKey p 8) 8) 63

/-- Raise a 16-bit counter that stops at its maximum. -/
def bump16 (key : Nat) : Act := .get fun s => putLe key 2 (min (s.le key 2 + 1) 0xFFFF)

/-- A flit of a port fails its CRC and is replayed: an error of the port that the replay corrects, shared as every error of a flit is (R396, R397; log
160). -/
def replayFlit (port : Nat) (inj : Bool) : Act :=
  .all [bump (portKey port 0), bump (portKey port 4), reportError 10 port 0 0 false inj true,
        upd fun s => { s with replays := Tab.set s.replays port (s.replayCount port + 1) }]

/-- The four spare ports that a committed repair, trained yet or not, or a candidate has taken (R30). -/
def State.portSpares (s : State) : Nat := ((s.repairs ++ s.candidates).filter fun r => r.unit == 10).length

/-- A committed repair of a port has taken no spare yet (R390). -/
def State.portRepair (s : State) (port : Nat) : Option Repair :=
  s.repairs.find? fun r => r.unit == 10 && r.index == port && s.applied.count r < s.repairs.count r

/-- A port goes down: it is a repair candidate while a spare is left, and its outstanding requests are resent once by another port
(R387, R390). -/
def portDown (port : Nat) : Act :=
  .all [putBits (portKey port 8) 8 63 63 0, errorRecord 10 8 false true 0 port 0 0,
        upd fun s => { s with downPorts := insertSorted port s.downPorts },
        .get fun s => .when (s.portSpares < 4) (addCandidate 10 port 0 port),
        .get fun s => .each (s.accs.filter fun a => a.state == .fabric port false) fun a =>
          .all [upd fun s => { s with packets := s.packets.filter fun p => p.response != some a.id }, sendByPort a true]]

/-- `FLIT_REPLAY` (R387). -/
def execFlitReplay (port : Nat) (s : State) : Host.Outcome State Fault Refusal :=
  stepWith (.get fun s => .when (s.portUp port && s.replayCount port < 16) (replayFlit port false)) s

/-- `PORT_RETRAIN` (R387): a port that is not in service, or has replayed one flit 16 times, trains. After three failures in
a row it goes down. One that went down trains again only onto a spare, once its repair is committed (R30, R390; log 103). -/
def execPortRetrain (port : Nat) (trained : Bool) (s : State) : Host.Outcome State Fault Refusal :=
  stepWith (.get fun s =>
    let fails := (Tab.find? s.trainFails port).getD 0
    let down := s.downPorts.contains port
    .when (port < 76 && (!s.portUp port || 16 ≤ s.replayCount port) && !(down && trained && (s.portRepair port).isNone)) (
      if trained then
        .all [.when (s.portUp port || down) (.all [bump16 (portKey port 8), errorRecord 10 7 false true 0 port 0 0]),
              putBits (portKey port 8) 8 63 63 1,
              .when down (upd fun s => { s with
                downPorts := s.downPorts.filter (· != port), applied := s.applied ++ (s.portRepair port).toList }),
              upd fun s => { s with replays := Tab.erase s.replays port, trainFails := Tab.erase s.trainFails port }]
      else
        .all [upd fun s => { s with trainFails := Tab.set s.trainFails port (fails + 1) },
              .when (s.portUp port && fails + 1 == 3) (.all [
                upd fun s => { s with replays := Tab.erase s.replays port, trainFails := Tab.erase s.trainFails port },
                portDown port])])) s

/-! ### Ingress (R323, R324, R388) -/

/-- The tag of a packet passes PTAGMAP. -/
def State.tagOk (s : State) (p : Packet) : Bool := bit (s.bar 0 (0x20000 + 512 * p.port + p.tag / 8) 1) (p.tag % 8)

/-- What an ingress request meets in the EXPORT table (R321, R324, R385, R388): the local address by an entry that accepts it, or a refusal
status: 1 no export covers it, or it is no read or write of an aligned 64-byte unit; 2 its tag differs from every entry's; 3 an export with its
tag is revoking past its deadline, or revoked. -/
def State.exportOf (s : State) (p : Packet) : Except Nat Nat :=
  let covers (i : Nat) : Bool :=
    let base := bits (s.export' i 1) 51 21 * 2 ^ 21
    bits (s.export' i 0) 63 62 != 0 && bits (s.export' i 0) 59 48 == p.rdev && base ≤ p.addr
      && p.addr + 64 ≤ base + (bits (s.export' i 0) 46 32 + 1) * 2 ^ 21
  let open' (i : Nat) : Bool :=
    let st := bits (s.export' i 0) 63 62
    st == 1 || (st == 2 && s.time < s.export' i 3)
  let es := (List.range 64).filter covers
  let tagged := es.filter fun i => s.export' i 0 % 4096 == p.tag
  if p.addr % 64 ≠ 0 ∨ p.size ≠ 64 ∨ (p.write ∧ p.data.length ≠ 64) then .error 1
  else if es.isEmpty then .error 1
  else match tagged.find? open' with
    | some i => .ok (bits (s.export' i 2) 51 21 * 2 ^ 21 + (p.addr - bits (s.export' i 1) 51 21 * 2 ^ 21))
    | none => if es.any (fun i => !open' i) && (tagged.length != 0 || !es.any open') then .error 3 else .error 2

/-- The answer to a request leaves by its port. -/
def answer (p : Packet) (data : List Byte) (refused : Nat) : Act :=
  upd fun s => { s with sent := { p with data := data, response := some 0, refused := refused } :: s.sent }

/-- A lessee's request is performed as plain bytes on the local HBM (R324): the ciphertext, of a unit that a path of the device has enciphered; a write to a region that is not live makes it live
first, with zeros (R134). `ue` is an uncorrectable error of its flit. -/
def serveExport (p : Packet) (pa : Nat) (ue : Bool) : Act :=
  .get fun s =>
    if p.write then
      let write : Act := .all [physWrite none pa (p.data.map fun b => (b, ue)),
        upd fun s => { s with physKey := Tab.erase s.physKey (s.homeKey (Space.phys pa)) }, answer p [] 0]
      if s.deadRegions.contains (regionOf pa) then
        reviveRegion (regionOf pa) fun ok => if ok then .all [zeroRegion (regionOf pa), write] else answer p [] 1
      else write
    else .all [
      .when (!s.deadRegions.contains (regionOf pa)) (let d := s.detector pa
        injectArray d.1 d.2 pa (s.homeKey (Space.phys pa)) 0 pa true fun hit ue => .when (hit && d.1 == 7) (hbmError pa ue)),
      answer p ((s.physRead none false pa 64).map (·.1)) 0]

/-- A read through an export of a region that fills with zeros waits for the fill (R134). -/
def State.fillWaits (s : State) (p : Packet) : Bool :=
  p.response.isNone && !p.write && s.tagOk p && match s.exportOf p with | .ok pa => s.filling.contains (regionOf pa) | .error _ => false

/-- A request is taken after the requests that arrived at its port before it (R324), and once its region lets it be. -/
def State.packetTurn (s : State) (k : Nat) (p : Packet) : Bool :=
  p.response.isSome || (!s.fillWaits p && !(s.packets.take k).any fun q => q.port == p.port && q.response.isNone)

/-- An injected error of KIND 1 or 2 at a flit of a port (R394): counted and recorded as one of the physical function, shared (R396). It goes on with
whether it is uncorrectable: then the packet's data is poisoned. -/
def portError (p : Packet) (k : Bool → Act) : Act :=
  .get fun s =>
    let inj := s.injects 10 p.port 0
    .all [.when (inj == some 1 || inj == some 2) (.all [useInjection, reportError 10 p.port 0 p.addr (inj == some 2) true true]), k (inj == some 2)]

/-- A response to an access that came through a lease: the bytes of its unit, with the marks that an error of its flit gives them. A write whose unit
was to be read first does not carry poison out (R375). -/
def landResponse (id : Nat) (a : Acc) (p : Packet) (ue : Bool) : Act :=
  .get fun s =>
    let home := Space.lease p.rdev p.addr
    let unit := (List.range 64).map fun i => (s.unitByte { a with pa := a.unitPa }.path (home + i), ue || s.poisoned (home + i))
    if a.readsFirst then
      (if ue then finishAcc id 0 [a.cond 0x0804 a.loc] else .all [modAcc id fun x => { x with got := 1 }, issuePeer { a with got := 1 }])
    else if a.fills && a.data.isEmpty then
      let e := (s.clusterSt (clusterOf a.core)).epoch
      .all [modAcc id fun x => { x with data := unit, epoch := e }, issuePeer { a with data := unit, epoch := e }]
    else if a.fills then landLine a (a.data ++ unit) (((a.data ++ unit).drop (a.pa % 128)).take a.size)
    else if ue && !a.write then landRead a ((unit.drop (a.pa % 64)).take a.size)
    else performAt (Space.lease p.rdev (p.addr + a.pa % 64)) a

/-- `FABRIC_INGRESS` (R324, R384, R386, R388): a packet reaches a port that is in service. Its partition tag is checked; a
request is performed or refused, a response ends the access it answers. -/
def execFabricIngress (k : Nat) (s : State) : Host.Outcome State Fault Refusal :=
  stepWith (.get fun s => match s.packets[k]? with
    | none => .done
    | some p =>
      .when (s.portUp p.port && s.replayCount p.port < 16 && s.packetTurn k p) (
        if s.injects 10 p.port 0 = some 3 then .all [useInjection, replayFlit p.port true]
        else .all [
          upd fun s => { s with packets := s.packets.eraseIdx k, replays := Tab.erase s.replays p.port },
          if !s.tagOk p then
            .all [bump16 (portKey p.port 10), errorRecord 10 9 false true 0 p.port p.addr p.tag,
                  .when p.response.isNone (answer p [] 2)]
          else match p.response with
            | none => match s.exportOf p with
              | .error r => answer p [] r
              | .ok pa => portError p (serveExport p pa)
            | some id => match s.acc? id with
              | none => .done
              | some a => .when (match a.state with | .fabric q _ => q == p.port | _ => false) (match p.refused with
                | 0 => portError p (landResponse id a p)
                | 1 => finishAcc id 0 [a.cond 0x0803 1]
                | 2 => finishAcc id 0 [a.cond 0x0803 2]
                | _ => finishAcc id 0 [a.cond 0x0806 (64 + (s.leaseOf a.pa).getD 0)])])) s

/-- `FABRIC_TIMEOUT` (R386): no response within 1 ms. -/
def execFabricTimeout (k : Nat) (s : State) : Host.Outcome State Fault Refusal :=
  stepWith (onAcc k fun s a => match a.state with
    | .fabric port _ => .when (a.since + 1000000 ≤ s.time) (.all [
        bump16 (portKey port 12),
        upd fun s => { s with packets := s.packets.filter fun p => p.response != some k },
        finishAcc k 0 [a.cond 0x0803 (3 + 32 * ((s.leaseOf a.pa).elim 0 fun i => bits (s.lease i 0) 59 48))]])
    | _ => .done) s

end Sys2Proof.Machine
end

