-- ==== Sys2Proof/Machine/Capstan.lean ====
section
/-!
DEFINITION. Capstan (R78 to R96, R115 to R117, R350 to R352): software queues and hardware slots, selection, placement,
binding, dispatch, cancel, release and the end of a gang.
-/

namespace Sys2Proof.Machine

/-! ### Capstan's reads and writes (R350, R352) -/

/-- How a page answers Capstan. -/
inductive CapPage where
  | found (pa : Nat) (key : Option Nat)
  | wait
  | bad
  deriving DecidableEq, Repr

/-- A page by the function's shadow table; one whose page request was refused is bad. -/
def State.capPage (s : State) (f va : Nat) (write : Bool) : CapPage :=
  match s.walk f va with
  | .absent _ =>
    if s.accs.any fun a => a.core == capCore && a.func == f && a.va / 65536 == va / 65536 && a.state == .page (some refusedTag)
    then .bad else .wait
  | _ => match s.translate f va write with
    | none => .bad
    | some (pa, key) =>
      if isHost pa || isHbm pa || isLpddr pa || (isPeer pa && (s.leaseOf pa).any fun i => s.leaseState i == 1) then .found pa key
      else .bad

/-- Ask for a page that is not mapped: one request for each 64 KiB region. -/
def askPage (f va : Nat) (write : Bool) : Act :=
  upd fun s =>
    if s.accs.any fun a => a.core == capCore && a.func == f && a.va / 65536 == va / 65536 then s
    else { s with
      nextAcc := s.nextAcc + 1
      accs := s.accs ++ [{ Acc.fresh s.nextAcc capCore 0 (HEntry.blank { Origin.device capCore with func := f })
        { elem := 0, va := va, size := 0, loc := 0 } write with state := .page none, since := s.cycle }] }

/-- A refusal has been taken note of. -/
def forgetPages (f : Nat) : Act :=
  upd fun s => { s with accs := s.accs.filter fun a => !(a.core == capCore && a.func == f && a.state == .page (some refusedTag)) }

/-- What Capstan reads. -/
inductive CapRead where
  | bytes (bs : List (Byte × Bool))
  | wait (vas : List Nat)
  | bad
  deriving DecidableEq, Repr

/-- Bytes at a virtual address of a function, page by page. A read of a region that fills with zeros waits for the fill, with no page to ask for
(R134). -/
def State.fetch (s : State) (f va n : Nat) : CapRead :=
  let parts := (beats 4096 (n / 4096 + 2) va 0 n).map fun b => (va + b.1, b.2, s.capPage f (va + b.1) false)
  let vas := parts.filterMap fun p => match p.2.2 with | .wait => some p.1 | _ => none
  if parts.any fun p => (match p.2.2 with | .bad => true | _ => false) then .bad
  else if !vas.isEmpty || parts.any fun p => (match p.2.2 with | .found pa _ => isHbm pa && s.filling.contains (regionOf pa) | _ => false) then .wait vas
  else .bytes (parts.flatMap fun p => match p.2.2 with | .found pa key => s.physRead key false pa p.2.1 | _ => [])

/-- Capstan's read of bytes passes the detectors of its pages (R394, R396). -/
def injectFetch (f va n : Nat) : Act :=
  .get fun s => .each (beats 4096 (n / 4096 + 2) va 0 n) fun b => match s.capPage f (va + b.1) false with
    | .found pa _ => deviceRead f pa b.2
    | _ => .done

/-- Write a few bytes of a descriptor; `k` hears whether they could be written, `wait` runs while a page is asked for. -/
def capPut (f va : Nat) (bs : List Byte) (k : Bool → Act) (wait : Act) : Act :=
  .get fun s => match s.capPage f va true with
    | .wait => .all [askPage f va true, wait]
    | .bad => .all [forgetPages f, k false]
    | .found pa key =>
      let write := physWrite key pa (bs.map fun b => (b, false))
      if isHbm pa && s.deadRegions.contains (regionOf pa) then
        reviveRegion (regionOf pa) fun ok => if ok then .all [zeroRegion (regionOf pa), write, k true] else k false
      else .all [write, k true]

/-- An operation of Capstan waits for a page. -/
def pendOp (i : Instr) : Act := upd fun s => { s with pendingOps := s.pendingOps ++ [i] }

/-! ### Reports (R351) -/

/-- A report in GANGST: its fields while VALID is 0, MORE else; MSI-X vector 4 always. -/
def reportGang (f gang reason qid index core : Nat) : Act :=
  .all [.get fun s =>
          let t := s.bar f 0x78 8
          if bit t 0 then putBits (Space.bar f 0x78) 8 1 1 1
          else putLe (Space.bar f 0x78) 8 (gang % 2 ^ 16 * 2 ^ 48 + reason % 256 * 2 ^ 40 + qid % 256 * 2 ^ 32 + index % 2 ^ 16 * 2 ^ 16
            + core % 256 * 2 ^ 8 + bits t 1 1 * 2 + 1),
        msix f 4]

/-! ### Descriptors (R78) -/

/-- A queue descriptor. -/
structure Desc where
  ring : Nat
  size : Nat
  head : Nat
  tail : Nat
  flags : Nat
  cls : Nat
  deriving DecidableEq, Repr

/-- The number in bytes `off` to `off + n - 1` of a list. -/
def fieldOf (r : List Byte) (off n : Nat) : Nat := leNat ((r.drop off).take n)

def Desc.parse (bs : List Byte) : Desc :=
  { ring := fieldOf bs 0 8, size := fieldOf bs 8 2, head := fieldOf bs 0x0A 2, tail := fieldOf bs 0x0C 2, flags := fieldOf bs 0x0E 1,
    cls := fieldOf bs 0x0F 1 }

/-- SIZE a power of two from 1 to 4,096 and RINGVA a multiple of 256 (R352). -/
def Desc.valid (d : Desc) : Bool := ((List.range 13).any fun k => d.size == 2 ^ k) && d.ring % 256 == 0

/-- Virtual address of the descriptor of a queue. -/
def State.descVa (s : State) (f qid : Nat) : Nat := s.bar f 0x08 8 + 64 * qid

/-! ### Slots (R79, R80) -/

def State.capSlot? (s : State) (k : Nat) : Option CapSlot := Tab.find? s.capSlots k

/-- The slot of a queue. -/
def State.slotOf (s : State) (f qid : Nat) : Option (Nat × CapSlot) := s.capSlots.find? fun e => e.2.func == f && e.2.qid == qid

def modCap (k : Nat) (g : CapSlot → CapSlot) : Act :=
  upd fun s => { s with capSlots := s.capSlots.map fun e => if e.1 == k then (e.1, g e.2) else e }

/-- Records posted in a slot's ring. -/
def CapSlot.count (q : CapSlot) : Nat := (q.tail + q.size - q.head) % max q.size 1

/-- The class of the head record, once known (R86). -/
def CapSlot.headClass (q : CapSlot) : Option Nat :=
  if q.count = 0 then none else if q.cls ≠ 0xFF then some q.cls else q.prio

/-- A record of the slot's queue lies between selection and dispatch. -/
def State.inBinding (s : State) (k : Nat) : Bool := s.binding.any fun b => b.slot == k

/-- A live gang comes from a queue. -/
def State.liveFrom (s : State) (f qid : Nat) : Bool := s.gangs.any fun g => g.func == f && g.qid == qid

/-- PENDCNT of CAPSTAT. -/
def showPending : Act := .get fun s => putBits (Space.bar 0 0x10000) 4 31 16 s.qpend.length

/-- A queue becomes pending (R80, R81). -/
def setPending (f qid : Nat) : Act :=
  .all [upd fun s => { s with qpend := if s.qpend.contains (f, qid) then s.qpend else s.qpend ++ [(f, qid)] },
        putBits (Space.bar f (0x10 + 4 * (qid / 32))) 4 (qid % 32) (qid % 32) 1, showPending]

/-- It is pending no more. -/
def clearPending (f qid : Nat) : Act :=
  .all [upd fun s => { s with qpend := s.qpend.filter (· != (f, qid)) },
        putBits (Space.bar f (0x10 + 4 * (qid / 32))) 4 (qid % 32) (qid % 32) 0, showPending]

/-- A slot is free: pending queues may be mapped at once. -/
def dropSlot (k : Nat) : Act :=
  .all [upd fun s => { s with capSlots := Tab.erase s.capSlots k },
        .get fun s => .when (!s.qpend.isEmpty) (upd fun s => { s with work := .op .queueMapPending :: s.work })]

/-- A slot keeps values that could not be written to its descriptor (R352). -/
def State.keeps (s : State) (q : CapSlot) : Bool := q.dirty || s.owed.any fun o => o.func == q.func && o.qid == q.qid && o.failed

/-- A slot frees when its ring is empty and every gang bound from its queue has ended (R80); one that keeps values does not
(R352). -/
def freeCheck (f qid : Nat) : Act :=
  .get fun s => match s.slotOf f qid with
    | some (k, q) => .when (q.count == 0 && !s.keeps q && !s.liveFrom f qid && !s.inBinding k) (dropSlot k)
    | none => .done

/-- A queue whose descriptor a notify has found valid is selectable again once all that it owes is written (R352). -/
def mend (f qid : Nat) : Act :=
  .get fun s => match s.slotOf f qid with
    | some (k, q) => .when (q.mending && !q.dirty && !s.owed.any fun o => o.func == f && o.qid == qid)
        (modCap k fun q => { q with unusable := false, mending := false })
    | none => .done

/-- A queue is unusable (R352): reported, and unmapped unless its slot keeps values; it is pending no more. -/
def queueBad (f qid : Nat) : Act :=
  .all [reportGang f 0 0x06 qid 0 0, .get fun s => .when (s.qpend.contains (f, qid)) (clearPending f qid),
        .get fun s => match s.slotOf f qid with
          | some (k, q) => if s.keeps q || s.inBinding k then modCap k fun q => { q with unusable := true, mending := false }
              else dropSlot k
          | none => .done]

/-- Write HEAD and TAIL of a slot to its descriptor; values that cannot be written stay (R352). -/
def writeBack (k : Nat) : Act :=
  .get fun s => match s.capSlot? k with
    | none => .done
    | some q =>
      capPut q.func (s.descVa q.func q.qid + 0x0A) (leBytes 2 q.head ++ leBytes 2 q.tail)
        (fun ok => if ok then .all [modCap k fun q => { q with dirty := false }, mend q.func q.qid]
          else .all [modCap k fun q => { q with dirty := true }, queueBad q.func q.qid])
        (modCap k fun q => { q with dirty := true })

/-- Add what is owed to DONE and CANCELS of a queue's descriptor (R78, R352); where that fails, it is kept until a later notify. -/
def settleOwed (f qid : Nat) : Act :=
  .get fun s => match s.owed.find? fun o => o.func == f && o.qid == qid with
    | none => .done
    | some o =>
      let fail : Act := .all [
        upd fun s => { s with owed := s.owed.map fun x => if x.func == f && x.qid == qid then { x with failed := true } else x },
        queueBad f qid]
      match s.fetch f (s.descVa f qid + 0x10) 16 with
      | .wait vas => .each vas fun va => askPage f va true
      | .bad => .all [forgetPages f, fail]
      | .bytes bs =>
        let r := bs.map (·.1)
        .all [injectFetch f (s.descVa f qid + 0x10) 16, capPut f (s.descVa f qid + 0x10) (leBytes 8 (fieldOf r 0 8 + o.done) ++ leBytes 8 (fieldOf r 8 8 + o.cancels))
          (fun ok => if ok then .all [upd fun s => { s with owed := s.owed.filter fun x => !(x.func == f && x.qid == qid) }, mend f qid]
            else fail) .done]

/-- DONE, or CANCELS, rises by 1. -/
def owe (f qid done cancels : Nat) : Act :=
  .all [upd fun s => { s with
          owed := if s.owed.any fun o => o.func == f && o.qid == qid then
              s.owed.map fun o => if o.func == f && o.qid == qid then { o with done := o.done + done, cancels := o.cancels + cancels } else o
            else s.owed ++ [{ func := f, qid := qid, done := done, cancels := cancels, failed := false }] },
        .get fun s => .when (s.owed.all fun o => !(o.func == f && o.qid == qid && o.failed)) (settleOwed f qid)]

/-- HEAD moves past a record, whose fate is settled unless its gang lives. -/
def advanceHead (k : Nat) (gone : Bool) : Act :=
  .get fun s => match s.capSlot? k with
    | none => .done
    | some q =>
      .all [modCap k fun q => { q with
              head := (q.head + 1) % max q.size 1, headt := s.time, prio := none, skip := 0, skipped := false },
            upd fun s => { s with
              cancelled := s.cancelled.filter (· != (q.func, q.qid, q.head)),
              settled := if gone then (q.func, q.qid, q.head) :: s.settled else s.settled },
            writeBack k]

/-- Cancelled records at the head are discarded (R93). -/
def discardCancelled : Nat → Nat → Act
  | 0, _ => .done
  | n + 1, k => .get fun s => match s.capSlot? k with
    | none => .done
    | some q =>
      .when (q.count != 0 && s.cancelled.contains (q.func, q.qid, q.head) && !s.inBinding k)
        (.all [owe q.func q.qid 0 1, advanceHead k true, discardCancelled n k])

/-- Records at the indices posted anew are new ones: nothing is settled or cancelled of them; withdrawn ones lose their mark. -/
def posting (f qid head size old new : Nat) : Act :=
  upd fun s =>
    let at' (i : Nat) : Nat := (i + size - head) % max size 1
    let was (i : Nat) : Bool := decide (at' i < (old + size - head) % max size 1)
    let now (i : Nat) : Bool := decide (at' i < (new + size - head) % max size 1)
    let mine (r : Nat × Nat × Nat) : Bool := r.1 == f && r.2.1 == qid
    { s with
      settled := s.settled.filter fun r => !(mine r && now r.2.2 && !was r.2.2)
      cancelled := s.cancelled.filter fun r => !mine r || (now r.2.2 && was r.2.2) }

/-- The cycle of the last binding of a queue; 0 for one that has had none (R80). -/
def State.lastBind (s : State) (f qid : Nat) : Nat :=
  (s.lastBinds.find? fun b => b.1 == f && b.2.1 == qid).elim 0 (·.2.2)

/-- The slot that Capstan would reclaim (R80): lowest head class, an unknown one below all, then the earliest last binding. A remaining tie,
which the rule leaves open, goes to the lower slot number (log 104). -/
def State.reclaimable (s : State) : Option Nat :=
  (leastBy (fun e : Nat × CapSlot => [(e.2.headClass.elim 0 (· + 1)), s.lastBind e.2.func e.2.qid, e.1])
    (s.capSlots.filter fun e => !e.2.nopre && !s.inBinding e.1 && !s.keeps e.2)).map (·.1)

/-- Map a queue into a slot, reclaiming one if none is free; without one it becomes pending (R80). The head of a queue that is mapped again has no
skips, and none of them blocked anything meanwhile (log 145). -/
def mapQueue (f qid : Nat) (d : Desc) : Act :=
  .get fun s =>
    let fresh : CapSlot :=
      { func := f, qid := qid, ring := d.ring, size := d.size, enable := bit d.flags 0, nopre := bit d.flags 1, cls := d.cls,
        head := d.head % max d.size 1, tail := d.tail % max d.size 1, headt := s.time, prio := none, skip := 0, skipped := false,
        unusable := false, mending := false, dirty := false }
    let take (k : Nat) : Act := .all [upd fun s => { s with capSlots := Tab.set s.capSlots k fresh }, clearPending f qid, freeCheck f qid]
    match (List.range 1024).find? fun k => (s.capSlot? k).isNone with
    | some k => take k
    | none => match s.reclaimable with
      | some k => .all [writeBack k, .get fun t => match t.capSlot? k with
          | none => take k
          | some q => if q.dirty then setPending f qid
              else .all [.when (q.count != 0) (setPending q.func q.qid), take k]]
      | none => .all [setPending f qid,
          .when (s.capSlots.all fun e => e.2.nopre) (putBits (Space.bar 0 0x10000) 4 0 0 1)]

/-- A notify (R79, R95, R352). A record posted into an empty ring becomes the head, and HEADT is set; the class of a head that stays is
known as before; of a head that is withdrawn neither its class nor its skips remain (R88). -/
def notify (f qid tail : Nat) : Act :=
  .get fun s =>
    .when (s.barOpen f && s.bar f 0x08 8 != 0) (match s.fetch f (s.descVa f qid) 64 with
      | .wait vas => .all [.each vas fun va => askPage f va true, pendOp (.qnotify f qid tail)]
      | .bad => .all [forgetPages f, queueBad f qid]
      | .bytes bs => .all [injectFetch f (s.descVa f qid) 64, .get fun s =>
        let d := Desc.parse (bs.map (·.1))
        let t := if d.size = 0 then tail else tail % d.size
        match s.slotOf f qid with
        | some (k, q) =>
          if !d.valid then .all [capPut f (s.descVa f qid + 0x0C) (leBytes 2 t) (fun _ => .done) .done, queueBad f qid]
          else
            let t := if s.inBinding k && t = q.head then (q.head + 1) % d.size else t
            .all [posting f qid q.head d.size q.tail t,
                  modCap k fun q => { q with ring := d.ring, size := d.size, enable := bit d.flags 0, nopre := bit d.flags 1, cls := d.cls,
                                             tail := t, prio := if q.count = 0 || t = q.head then none else q.prio,
                                             skip := if t = q.head then 0 else q.skip, skipped := q.skipped && t != q.head,
                                             headt := if q.count = 0 then s.time else q.headt, mending := q.unusable },
                  retryOwed f qid, writeBack k, settleOwed f qid, mend f qid, freeCheck f qid]
        | none =>
          .all [posting f qid d.head d.size d.tail t, retryOwed f qid,
                capPut f (s.descVa f qid + 0x0C) (leBytes 2 t) (fun ok => if !ok then queueBad f qid else .all [
                  settleOwed f qid,
                  .get fun s => .when (bit d.flags 0 && !s.owed.any fun o => o.func == f && o.qid == qid && o.failed)
                    (if d.valid then mapQueue f qid { d with tail := t } else queueBad f qid)])
                  (pendOp (.qnotify f qid tail))]])
where
  /-- What a queue owes is written again (R352). -/
  retryOwed (f qid : Nat) : Act :=
    upd fun s => { s with owed := s.owed.map fun o => if o.func == f && o.qid == qid then { o with failed := false } else o }

/-- `QNOTIFY` (R79). -/
def execQnotify (f qid tail : Nat) (s : State) : Host.Outcome State Fault Refusal :=
  stepWith (notify (f % 1024) (qid % 256) (tail % 2 ^ 16)) s

/-- `QUEUE_MAP_PENDING` (R80, R352): the queue pending longest is mapped when a slot is free or reclaimable; it keeps its place where it cannot
be mapped yet. A round reclaims for one queue (log 122). -/
def execQueueMapPending (s : State) : Host.Outcome State Fault Refusal :=
  stepWith (.get fun s => match s.qpend with
    | [] => .done
    | (f, qid) :: _ =>
      .when (s.capSlots.length < 1024 || s.reclaimable.isSome) (match s.fetch f (s.descVa f qid) 64 with
        | .wait vas => .each vas fun va => askPage f va false
        | .bad => .all [forgetPages f, queueBad f qid]
        | .bytes bs =>
          let d := Desc.parse (bs.map (·.1))
          .all [injectFetch f (s.descVa f qid) 64,
                if !d.valid then queueBad f qid
                else if bit d.flags 0 && !s.owed.any (fun o => o.func == f && o.qid == qid && o.failed) then mapQueue f qid d
                else clearPending f qid,
                .get fun t => .when (!t.qpend.isEmpty && t.capSlots.length < 1024)
                  (upd fun s => { s with work := .op .queueMapPending :: s.work })])) s

/-! ### Records (R82 to R84) -/

/-- Fields of a record. -/
def recFlags (r : List Byte) : Nat := fieldOf r 2 2
def recPaired (r : List Byte) : Bool := bit (recFlags r) 1
def recStages (r : List Byte) : Nat := fieldOf r 6 1
def recQueues (r : List Byte) : Nat := fieldOf r 7 1
def recGroups (r : List Byte) : Nat := fieldOf r 8 2
def recCores (r : List Byte) : Nat := fieldOf r 0x0A 2
def recScr (r : List Byte) : Nat := fieldOf r 0x0C 4
def recScrSize (r : List Byte) : Nat := fieldOf r 0x10 4
def recPool (r : List Byte) : Nat := fieldOf r 0x14 4
def recQarea (r : List Byte) : Nat := fieldOf r 0x18 4
def recOpsram (r : List Byte) : Nat := fieldOf r 0x1C 4
def recPlates (r : List Byte) : Nat := fieldOf r 0x20 1
def recGtab (r : List Byte) : Nat := fieldOf r 0x24 4
def recCodeLen (r : List Byte) : Nat := fieldOf r 0x40 4
def recDataLen (r : List Byte) : Nat := fieldOf r 0x44 4

/-- Entries of the stage table (R83): row image, rows, entry block. -/
def recImage (r : List Byte) (i : Nat) : Nat := fieldOf r (0x60 + 12 * i) 6
def recRows (r : List Byte) (i : Nat) : Nat := fieldOf r (0x66 + 12 * i) 2
def recEntry (r : List Byte) (i : Nat) : Nat := fieldOf r (0x68 + 12 * i) 4

/-- Entries of the queue table. -/
def recQueue (r : List Byte) (i : Nat) : GangQueue :=
  { base := fieldOf r (0xC0 + 8 * i) 4, depth := fieldOf r (0xC4 + 8 * i) 2, src := fieldOf r (0xC6 + 8 * i) 1, dst := fieldOf r (0xC7 + 8 * i) 1 }

def recQueueList (r : List Byte) : List GangQueue := (List.range (recQueues r)).map (recQueue r)

/-- RPC (R84), and the stage of each local row index. -/
def recRpc (r : List Byte) : Nat := ((List.range (recStages r)).map (recRows r)).sum
def recStageOf (r : List Byte) : List Nat := (List.range (recStages r)).flatMap fun i => List.replicate (recRows r i) i

/-- The four dependences (R83): AFTER, without its reserved bits (R10), and AREF words. -/
def recDeps (r : List Byte) : List (Nat × Nat) :=
  (List.range 4).map fun i =>
    let a := fieldOf r (0x28 + 4 * i) 4
    (a - bits a 22 21 * 2 ^ 21, fieldOf r (0x50 + 4 * i) 4)

/-- Every field lies in its range, and every reserved byte is 0 (REASON 0x01): of reserved bits that are no whole byte a nonzero value is
ignored (R10), but the upper byte of FLAGS and that of AREF are reserved bytes (log 105). RPC = 0 counts as a range broken (log 105). CORE and ADDR of a dependence are judged by G × C and the scratchpad of the record that holds it (log 66). -/
def recordOk (r : List Byte) : Bool :=
  fieldOf r 0 2 == 1 && recFlags r < 256 && fieldOf r 4 1 ≤ 7 && 1 ≤ fieldOf r 5 1 && fieldOf r 5 1 ≤ 4
    && 1 ≤ recStages r && recStages r ≤ 8 && recQueues r ≤ 8 && 1 ≤ recGroups r && 1 ≤ recCores r && recGroups r * recCores r ≤ 256
    && recScr r % 64 == 0 && recScrSize r % 64 == 0 && recPool r % 64 == 0 && recQarea r % 128 == 0 && recOpsram r ≤ 2 ^ 21
    && recPlates r ≤ 4 && fieldOf r 0x21 3 == 0 && recCodeLen r % 16 == 0 && recCodeLen r ≤ 2 ^ 18
    && recDataLen r + 128 ≤ recScrSize r && 1 ≤ recRpc r
    && (recDeps r).all (fun d => d.2 < 2 ^ 24 && (d.1 == 0 || (bits d.1 31 24 < recGroups r * recCores r
      && recScr r ≤ d.1 % 2 ^ 21 && d.1 % 2 ^ 21 < recScr r + recScrSize r)))
    && (recQueueList r).all fun q => q.base % 32 == 0 && 1 ≤ q.depth && q.depth ≤ 4096 && q.src < recStages r && q.dst < recStages r

/-! ### The carve (R115 to R117) -/

/-- Bytes below the top that the queue area, the view pool and their granules take. -/
def recTop (r : List Byte) : Nat :=
  if recPool r ≠ 0 then recQarea r + 64 + recPool r + 64 else if recQarea r ≠ 0 then recQarea r + 64 else 0

/-- Free positions of each bank, in ascending order. -/
def recFree (r : List Byte) : List (List Nat) :=
  (List.range 8).map fun b => (List.range 64).filter fun n =>
    let a := 0x40000 * b + 0x1000 * n
    a + 0x1000 + recTop r ≤ 0x200000 && (a + 0x1000 ≤ recScr r || recScr r + recScrSize r ≤ a)

/-- Rows to positions (R90): row `i` tries banks in the order of PACK; ROWIDs in local index order. -/
def allocRows (pack : Bool) : Nat → Nat → List (List Nat) → Option (List Nat)
  | 0, _, _ => some []
  | n + 1, i, free =>
    let order := if pack then List.range 8 else (List.range 8).map fun k => (i + k) % 8
    match order.find? fun b => !(free.getD b []).isEmpty with
    | none => none
    | some b => (allocRows pack n (i + 1) (free.set b ((free.getD b []).drop 1))).map ((64 * b + ((free.getD b []).headD 0)) :: ·)

/-- The carve of a record: its rows' positions, or nothing where it fails (REASON 0x02). -/
def carve (r : List Byte) : Option (List Nat) :=
  if recTop r ≤ 0x200000 ∧ recScr r + recScrSize r + recTop r ≤ 0x200000
      ∧ ((recQueueList r).map fun q => 128 * q.depth).sum ≤ recQarea r then
    allocRows (bit (recFlags r) 2) (recRpc r) 0 (recFree r)
  else none

/-- Guard granules of each core (R115, R116). -/
def recGuards (r : List Byte) : List Nat :=
  [recScr r, recScr r + 64 + roundUp (recDataLen r) 64]
    ++ (if recQarea r ≠ 0 then [0x200000 - recQarea r - 64] else [])
    ++ (if recPool r ≠ 0 then [0x200000 - recQarea r - 64 - recPool r - 64] else [])

/-! ### Partitions and placement (R85, R87, R88) -/

/-- The partitions of a function: first core, cores (R85, R306). -/
def State.partitions (s : State) (f : Nat) : List (Nat × Nat) :=
  (List.range 511).filterMap fun i =>
    let n := i + 1
    let e := s.bar 0 (0x11800 + 2 * n) 2
    let d := Nat.log2 n
    if bit e 15 && e % 1024 == f then some ((n - 2 ^ d) * 2 ^ (8 - d), 2 ^ (8 - d)) else none

/-- A core may take a gang of so many tiles (R87, R391): no accepted command of a gang that has ended is left on its tiles (R258). -/
def State.coreFree (s : State) (plates core : Nat) : Bool :=
  (s.gangOn? core).isNone && !(s.coreSt core).disabled
    && (s.coreSt core).opa.all (fun e => e.tile == 4 || (s.gang? e.org.gang).isSome)
    && plates ≤ ((List.range 4).filter fun t => s.tileState core t == 0).length

/-- Cores that a record needs in one partition. -/
def recNeed (r : List Byte) : Nat := recGroups r * recCores r * (if recPaired r then 2 else 1)

/-- The lowest placement of a record within the partitions given: the first core of its run, and of copy B's. -/
def State.placement (s : State) (parts : List (Nat × Nat)) (r : List Byte) : Option (Nat × Nat) :=
  let n := recGroups r * recCores r
  let align := min 16 (((List.range 9).map (2 ^ ·)).find? (recCores r ≤ ·) |>.getD 256)
  let run (p : Nat × Nat) (a : Nat) : Bool :=
    a % align == 0 && p.1 ≤ a && a + n ≤ p.1 + p.2 && (List.range n).all fun i => s.coreFree (recPlates r) (a + i)
  (List.range 256).findSome? fun a => parts.findSome? fun p =>
    if !run p a then none
    else if !recPaired r then some (a, 0)
    else ((List.range 256).find? fun b => run p b && (a + n ≤ b || b + n ≤ a)
      && (List.range n).all fun i => 2 ≤ Config.meshHops (a + i) (b + i)).map fun b => (a, b)

/-- G consecutive free entries of a function's group table (R89): the lowest, where the rule does not say which (log 106). -/
def State.groupRoom (s : State) (f g : Nat) : Option Nat :=
  (List.range 256).find? fun b => b + g ≤ 256 && (List.range g).all fun i => (Tab.find? s.groupTab (256 * f + b + i)).isNone

/-! ### Selection (R83, R86, R350) -/

/-- The head record of a slot, as it stands in the ring. -/
def State.headRecord (s : State) (q : CapSlot) : Option (List Byte) :=
  match s.fetch q.func (q.ring + 256 * q.head) 256 with
  | .bytes bs => some (bs.map (·.1))
  | _ => none

/-- A dependence is met (R83). Where a gang bound from the index lives while a new record stands there, it is judged by the gang (log 107). -/
def State.depMet (s : State) (f after aref : Nat) : Bool :=
  let q := bits aref 23 16
  let i := aref % 2 ^ 16
  after == 0 || match (s.gangs.filter fun g => g.func == f && g.qid == q && g.index == i).getLast? with
    | some g => g.dispatched && s.loc (g.first + bits after 31 24) (after % 2 ^ 21) 1 % 2 == bits after 23 23
    | none => s.settled.contains (f, q, i)

/-- The reasons found at selection, lowest first (R350). -/
def State.recordCheck (s : State) (f : Nat) (r : List Byte) : Option Nat :=
  let step := bit (recFlags r) 0
  if !recordOk r then some 0x01
  else if (carve r).isNone then some 0x02
  else if ((s.partitions f).map (·.2)).foldl max 0 < recNeed r then some 0x03
  else if ((recOpsram r != 0 || step) && !s.ckeyUsable f) || (step && bits (s.funcWord f 2) 51 12 == 0) then some 0x07
  else none

/-- A function may bind (R307, R319, R103): EN set, not locked short of RUN, its context not stopped. -/
def State.mayBind (s : State) (f : Nat) : Bool :=
  bit (s.funcWord f 0) 63 && ((s.func f).tdi == 0 || (s.func f).tdi == 2) && !(s.func f).halted

/-- Round order: class, HEADT, slot number. -/
def roundKey (e : Nat × CapSlot) : List Nat := [255 - (e.2.headClass.getD 0), e.2.headt, e.1]

/-- Sort by a key, least first. -/
def sortBy {α : Type} (key : α → List Nat) : List α → List α
  | [] => []
  | x :: xs => insertBy x (sortBy key xs)
where
  /-- Insert before the first element of greater key. -/
  insertBy (x : α) : List α → List α
    | [] => [x]
    | y :: ys => if keyLt (key y) (key x) then y :: insertBy x ys else x :: y :: ys

/-- The slots whose heads are considered in a round, in its order. -/
def State.heads (s : State) : List Nat :=
  (sortBy roundKey (s.capSlots.filter fun e =>
    let q := e.2
    q.enable && !q.unusable && q.count != 0 && q.headClass.isSome && s.mayBind q.func && !s.inBinding e.1
      && (s.headRecord q).any fun r => (recDeps r).all fun d => s.depMet q.func d.1 d.2)).map (·.1)

/-- The blocking head of a partition of a function (R88): the first in round order that has been skipped 16 times and fits. -/
def State.blocker (s : State) (f size : Nat) : Option Nat :=
  (leastBy roundKey (s.capSlots.filter fun e =>
    e.2.func == f && 16 ≤ e.2.skip && e.2.count != 0 && (s.headRecord e.2).all fun r => recNeed r ≤ size)).map (·.1)

/-- The partitions that a slot's head may be placed in. -/
def State.openParts (s : State) (k f : Nat) : List (Nat × Nat) :=
  (s.partitions f).filter fun p => (s.blocker f p.2).all (· == k)

/-- The record at a slot's head is rejected (R350). -/
def rejectHead (k reason : Nat) : Act :=
  .get fun s => match s.capSlot? k with
    | none => .done
    | some q => .all [advanceHead k true, reportGang q.func 0 reason q.qid q.head 0, freeCheck q.func q.qid]

/-- The next gang identifier (R89). A gang of a saved context that has not been resumed counts as not live (log 108). -/
def nextGang (s : State) : Nat → Nat → Nat
  | 0, g => g
  | n + 1, g =>
    let h := g % 65535 + 1
    if (s.gang? h).isSome then nextGang s n h else h

/-- A gang is selected and placed: its identifier, cores and table entries are claimed; binding starts (R89 steps 1 and 2). -/
def claimGang (k : Nat) (r : List Byte) (first firstB gbase : Nat) : Act :=
  .get fun s => match s.capSlot? k with
    | none => .done
    | some q =>
      let id := nextGang s 65536 s.lastGang
      let cls := q.headClass.getD 0
      let g : Gang :=
        { id := id, func := q.func, qid := q.qid, index := q.head, superstep := bit (recFlags r) 0, paired := recPaired r,
          pack := bit (recFlags r) 2, prio := cls, openLimit := fieldOf r 5 1, groups := recGroups r, cores := recCores r,
          gbase := gbase, rpc := recRpc r, first := first, firstB := firstB, plates := recPlates r, opsram := recOpsram r,
          scrbase := recScr r, scrsize := recScrSize r, vpool := recPool r, qarea := recQarea r,
          queues := recQueueList r, entries := (List.range (recStages r)).map (recEntry r), dispatched := false, released := false,
          barrier := none, rollbacks := 0, snapshots := [], rollbackDue := false }
      let size := ((s.partitions q.func).find? fun p => p.1 ≤ first && first < p.1 + p.2).elim 0 (·.2)
      .all [upd fun s => { s with
              gangs := s.gangs ++ [g], lastGang := id, binding := s.binding ++ [{ gang := id, slot := k, record := r, go := none }],
              groupTab := (List.range g.groups).foldl (fun t i => Tab.set t (256 * q.func + gbase + i) 0) s.groupTab
              lastBinds := (q.func, q.qid, s.cycle) :: s.lastBinds.filter fun b => !(b.1 == q.func && b.2.1 == q.qid)
              capSlots := s.capSlots.map fun e =>
                if e.1 == k then (e.1, { e.2 with skipped := false })
                else if e.2.func == q.func && e.2.skipped && cls ≤ e.2.headClass.getD 0
                    && (s.headRecord e.2).all (fun x => recNeed x ≤ size) then (e.1, { e.2 with skip := min (e.2.skip + 1) 16 })
                else e }]

/-- Take the heads of a round in order: rejected, skipped, or the first that can be placed bound. -/
def tryHeads : List Nat → Act
  | [] => .done
  | k :: ks => .get fun s => match s.capSlot? k with
    | none => tryHeads ks
    | some q => match s.headRecord q with
      | none => tryHeads ks
      | some r => match s.recordCheck q.func r with
        | some reason => .all [rejectHead k reason, tryHeads ks]
        | none =>
          if (s.openParts k q.func).isEmpty then tryHeads ks
          else match s.placement (s.openParts k q.func) r, s.groupRoom q.func (recGroups r) with
            | some p, some b => claimGang k r p.1 p.2 b
            | _, _ => .all [modCap k fun q => { q with skipped := true }, tryHeads ks]

/-! ### Binding (R89 to R91) -/

/-- Write bytes and their poison marks at a local address. -/
def placeBytes (core a : Nat) (bs : List (Byte × Bool)) : Act :=
  .all [put (Space.loc core a) (bs.map (·.1)), unpoison (Space.loc core a) bs.length,
        .each (bs.zipIdx.filter (·.1.2)) fun b => poisonAt (Space.loc core (a + b.2))]

/-- Zero local bytes and their marks. -/
def zeroLocal (core a n : Nat) : Act := .all [wipe (Space.loc core a) n, unpoison (Space.loc core a) n]

/-- A fresh record of a row. -/
def RowSt.fresh (gang : Nat) : RowSt :=
  { gang := gang, ready := 0, aged := false, outst := 0, nextSeq := 0, pending := [], trapBit := false, held := [], claim := none,
    early := 0, rep := 0, redir := [], view := 0, fences := [], wake := false, pairSeq := 0, arrived := [], tagged := [] }

/-- The 4 KiB of a row at its allocation (R91): the image, with the control field put over it and the executor's block-state area 0 (R61). PC
holds ENTRY's bits [31:4] (R54). FPCTL and the RNG stream are the image's. -/
def rowBytes (img : List (Byte × Bool)) (stage entry slots word : Nat) : List (Byte × Bool) :=
  let at' (i : Nat) : Byte × Bool := img.getD i (0, false)
  let own (off n : Nat) : List (Byte × Bool) := (List.range n).map fun i => (storedByte (off + i) 0 (at' (off + i)).1, (at' (off + i)).2)
  let plain (bs : List Byte) : List (Byte × Bool) := bs.map fun b => (b, false)
  plain (leBytes 8 (stage % 8 * 2 ^ 20) ++ leBytes 4 (entry / 16 * 16) ++ leBytes 4 0) ++ own 0x10 8
    ++ plain (leBytes 52 0 ++ leBytes 4 slots ++ leBytes 8 word ++ leBytes 32 0)
    ++ (List.range 8).map (fun i => at' (0x78 + i)) ++ (List.range 64).map (fun i => at' (128 + i)) ++ plain (leBytes 64 0)
    ++ (List.range (4096 - 256)).map fun i => at' (256 + i)

/-- The group maps of a record (R89, R39), from its data image. -/
def groupMaps (r : List Byte) (data : List (Byte × Bool)) : List Nat :=
  if recGtab r = 0 then (List.range (recGroups r)).map fun g => (2 ^ recCores r - 1) * 2 ^ (recCores r * g)
  else (List.range (recGroups r)).map fun g => leNat (((data.drop (recGtab r - recScr r - 64 + 32 * g)).take 32).map (·.1))

/-- The image of the group table lies wholly within the data image. -/
def gtabInside (r : List Byte) : Bool :=
  recGtab r == 0 || (recScr r + 64 ≤ recGtab r && recGtab r + 32 * recGroups r ≤ recScr r + 64 + recDataLen r)

/-- Groups of a gang-local core, ascending. -/
def groupsOf (maps : List Nat) (l : Nat) : List Nat := (List.range maps.length).filter fun g => bit (maps.getD g 0) l

/-- The queue descriptors of a core (R117, R289). -/
def queueDescriptors (core ring : Nat) : List GangQueue → Act
  | [] => .done
  | q :: qs => .all [
      placeBytes core q.base ((leBytes 4 ring ++ leBytes 2 q.depth ++ leBytes 1 q.src ++ leBytes 1 q.dst ++ leBytes 4 0 ++ leBytes 4 0
        ++ leBytes 4 0xFFFFFFFF ++ leBytes 12 0).map fun b => (b, false)),
      queueDescriptors core (ring + 128 * q.depth) qs]

/-- One core of a gang is written (R89 steps 3 and 4, R91, R116, R117, R153, R258, R377). -/
def writeCore (g : Gang) (r : List Byte) (rows : List Nat) (maps : List Nat) (code data : List (Byte × Bool))
    (img : Nat → List (Byte × Bool)) (l core : Nat) : Act :=
  let gs := groupsOf maps l
  let slots := (gs.zipIdx.map fun x => x.1 % 256 * 2 ^ (8 * x.2)).sum
  .all [placeBytes core 0x01800000 code, zeroLocal core g.scrbase g.scrsize, placeBytes core (g.scrbase + 64) data,
        queueDescriptors core g.qbase g.queues,
        .each ((rows.zip (recStageOf r)).zipIdx) fun x =>
          let rid := x.1.1
          let st := x.1.2
          .all [placeBytes core (rowBase rid) (rowBytes (img st) st (recEntry r st) slots
                  (gs.length * 2 ^ 56 + g.func * 2 ^ 46 + g.id * 2 ^ 30 + (l * g.rpc + x.2) % 2 ^ 17)),
                upd fun s => { s with rows := Tab.set s.rows (512 * core + rid) (RowSt.fresh g.id) }],
        upd fun s => { s with guard := (recGuards r).foldl (fun t a => insertSorted (Space.loc core a) t) s.guard },
        modCore core fun c => { c with trEn := false, trWrap := false, trNext := 0, trace := [], armed := [], cdone := [], sentUp := [], pool := [],
                                       viewRsv := [] },
        .get fun s => .each ((List.range 4).filter fun t => s.tileState core t == 0) fun t => bindTile core t g.func g.id]

/-- Everything claimed for a gang in binding is released (R93, R350). -/
def unbind (g : Gang) : Act :=
  .all [upd fun s => { s with
          gangs := s.gangs.filter fun x => x.id != g.id, binding := s.binding.filter fun b => b.gang != g.id
          rows := s.rows.filter fun r => r.2.gang != g.id
          groupTab := (List.range g.groups).foldl (fun t i => Tab.erase t (256 * g.func + g.gbase + i)) s.groupTab
          guard := s.guard.filter fun a => !g.allCores.contains (a / 2 ^ 32) },
        .get fun s => .each g.allCores fun c =>
          .each ((List.range 4).filter fun t => s.tileState c t == 1 && s.tileGang c t == g.id) fun t => freeTile c t]

/-- The images of a record: address and bytes. -/
def imageReads (r : List Byte) : List (Nat × Nat) :=
  (fieldOf r 0x38 8, recCodeLen r) :: (fieldOf r 0x48 8, recDataLen r)
    :: ((List.range (recStages r)).filter fun i => recImage r i != 0).map fun i => (recImage r i, 4096)

/-- Binding goes on once every image has been read; GO follows when the rows are written (R89, R91, R350). The group maps are judged as soon
as they can be, before the faults of other reads: the lowest reason is reported. -/
def continueBinding (b : Binding) : Act :=
  .all [.get fun s => match s.gang? b.gang with
    | none => .done
    | some g => .when (bit (s.bar 0 0x10068 8) 63 && (imageReads b.record).all fun x => match s.fetch g.func x.1 x.2 with | .bytes _ => true | _ => false)
        (.each (imageReads b.record) fun x => injectFetch g.func x.1 x.2),
  .get fun s => match s.gang? b.gang with
    | none => .done
    | some g =>
      let r := b.record
      let reads := imageReads r
      let got := reads.map fun x => s.fetch g.func x.1 x.2
      let data (x : CapRead) : List (Byte × Bool) := match x with | .bytes bs => bs | _ => []
      let vas := got.flatMap fun x => match x with | .wait vas => vas | _ => []
      let image (i : Nat) : List (Byte × Bool) := if recImage r i = 0 then [] else data (s.fetch g.func (recImage r i) 4096)
      let fail (reason : Nat) : Act := .all [unbind g, rejectHead b.slot reason]
      let n := g.groups * g.cores
      let maps := groupMaps r (data (got.getD 1 .bad))
      let judged := recGtab r == 0 || !(match got.getD 1 .bad with | .wait _ => true | _ => false)
      if !gtabInside r then fail 0x04
      else if judged && (maps.any (fun m => 2 ^ n ≤ m) || (List.range n).any fun l => 4 < (groupsOf maps l).length) then fail 0x04
      else if judged && got.any fun x => (match x with | .bad => true | _ => false) then .all [forgetPages g.func, fail 0x05]
      else if got.any fun x => (match x with | .wait _ => true | _ => false) then .each vas fun va => askPage g.func va false
      else
          let rows := (carve r).getD []
          let longest := ((List.range 8).map fun k => (rows.filter fun x => x / 64 == k).length).foldl max 0
          .all [upd fun s => { s with groupTab := maps.zipIdx.foldl (fun t m => Tab.set t (256 * g.func + g.gbase + m.2) m.1) s.groupTab },
                .each (List.range n) fun l => .all [
                  writeCore g r rows maps (data (got.getD 0 .bad)) (data (got.getD 1 .bad)) image l (g.first + l),
                  .when g.paired (writeCore g r rows maps (data (got.getD 0 .bad)) (data (got.getD 1 .bad)) image l (g.firstB + l))],
                upd fun s => { s with binding := s.binding.map fun x =>
                  if x.gang == b.gang then { x with go := some (s.cycle + 128 * longest + 1) } else x }]]

/-- `SELECTION_ROUND` (R86): pending queues, cancelled heads, values kept and bindings that wait go on first; then one gang at most
is selected and bound. -/
def execSelectionRound (s : State) : Host.Outcome State Fault Refusal :=
  stepWith (.all [
    .get fun s => .when (!s.qpend.isEmpty) (upd fun s => { s with work := .op .queueMapPending :: s.work }),
    .get fun s => .each s.capSlots fun e => .all [
      .when (e.2.dirty && (!e.2.unusable || e.2.mending)) (writeBack e.1), discardCancelled 4096 e.1, freeCheck e.2.func e.2.qid],
    .get fun s => .each (s.owed.filter fun o => !o.failed) fun o => settleOwed o.func o.qid,
    .get fun s => .each (s.binding.filter fun b => b.go.isNone) continueBinding,
    .get fun s => .each (s.capSlots.filter fun e => e.2.enable && e.2.count != 0 && s.mayBind e.2.func && !s.inBinding e.1) fun e =>
      match s.fetch e.2.func (e.2.ring + 256 * e.2.head) 256 with
      | .wait vas => .each vas fun va => askPage e.2.func va false
      | .bad => .all [forgetPages e.2.func, queueBad e.2.func e.2.qid]
      | .bytes bs => .all [injectFetch e.2.func (e.2.ring + 256 * e.2.head) 256,
          modCap e.1 fun q => { q with prio := some (fieldOf (bs.map (·.1)) 4 1) }],
    .get fun s => .when (!s.d3hot) (tryHeads s.heads),
    .get fun s => .each (s.binding.filter fun b => b.go.isNone) continueBinding]) s

/-- A gang's rows: core and ROWID. -/
def State.rowsOfGang (s : State) (g : Nat) : List (Nat × Nat) :=
  (s.rows.filter fun r => r.2.gang == g).map fun r => (r.1 / 512, r.1 % 512)

/-- GO of a gang (R92): HEAD moves past its record (R89 step 5), and every row becomes ready, or idle where ENTRY is 0. -/
def dispatchGang (b : Binding) : Act :=
  .all [advanceHead b.slot false,
        upd fun s => { s with binding := s.binding.filter fun x => x.gang != b.gang },
        modGang b.gang fun g => { g with dispatched := true },
        .get fun s => match s.gang? b.gang with
          | none => .done
          | some g => .each (s.rowsOfGang g.id) fun r =>
              .when (g.entries.getD (s.stage r.1 r.2) 0 != 0) (makeReady r.1 r.2)]

/-- `GANG_DISPATCH` (R92): the gangs whose GO is due. -/
def execGangDispatch (s : State) : Host.Outcome State Fault Refusal :=
  stepWith (.get fun s => .each (s.binding.filter fun b => b.go.any (· ≤ s.cycle)) dispatchGang) s

/-! ### Cancel (R93, R94) -/

/-- STOPREQ to every row of a gang. -/
def stopRows (g : Nat) : Act := .get fun s => .each (s.rowsOfGang g) fun r => request r.1 r.2 false true false

/-- A gang in binding is cancelled: its record is discarded. -/
def cancelBinding (b : Binding) : Act :=
  .get fun s => match s.gang? b.gang with
    | none => .done
    | some g => .all [unbind g, owe g.func g.qid 0 1, advanceHead b.slot true, freeCheck g.func g.qid]

/-- `QCANCEL` (R93, R94): as the record stands; a GO that is due in this cycle comes first. Where a gang bound from the index lives while a new
record stands there, the cancel is of the gang (log 109). -/
def execQcancel (f qid index : Nat) (s : State) : Host.Outcome State Fault Refusal :=
  stepWith (.get fun s =>
    let named (g : Gang) : Bool := g.func == f && g.qid == qid && g.index == index
    if !s.barOpen f then .done else match s.binding.find? fun b => (s.gang? b.gang).any named with
    | some b => if b.go.any (· ≤ s.cycle) then .all [dispatchGang b, stopRows b.gang] else cancelBinding b
    | none =>
      let mark (head tail size : Nat) : Act :=
        .when ((index + size - head) % max size 1 < (tail + size - head) % max size 1 && index < size)
          (upd fun s => { s with cancelled := (f, qid, index) :: s.cancelled.filter (· != (f, qid, index)) })
      let posted : Act := match s.slotOf f qid with
        | some (k, q) => .all [mark q.head q.tail q.size, discardCancelled 4096 k, freeCheck f qid]
        | none => .when (s.bar f 0x08 8 != 0) (match s.fetch f (s.descVa f qid) 64 with
            | .wait vas => .all [.each vas fun va => askPage f va false, pendOp (.qcancel f qid index)]
            | .bad => forgetPages f
            | .bytes bs => let d := Desc.parse (bs.map (·.1)); mark d.head d.tail d.size)
      match (s.gangs.filter fun g => named g && g.dispatched).getLast? with
      | some g => stopRows g.id
      | none => posted) s

/-! ### Release and end (R96) -/

/-- The Halyard commands of a gang that have not started are discarded, and those that run stop at the end of their chunk. -/
def stopHalyard (g : Gang) : Act :=
  .get fun s => .each g.allCores fun c => .each (s.coreSt c).halyard fun e =>
    .when (e.2.org.gang == g.id && !e.2.rsv && !e.2.unstarted) (
      if e.2.chunk then modEntry c e.1 fun h => { h with stopped := true }
      else .all [finishEntry c e.1, upd fun s => { s with mesh := s.mesh.filter fun m => !(m.src == c && m.pay == .chunk e.1) },
                 match e.2.opa with
                 | some q => match s.opaEntry c q with | some x => dropOpa c x | none => .done
                 | none => .done])

/-- Commands of a gang on their way to an arbiter are discarded; to their rows they count as acknowledged. -/
def dropCommands (g : Nat) : Act :=
  .get fun s =>
    let mine (m : Msg) : Bool := m.org.gang == g && match m.pay with | .opa c => c.op != 0 | _ => false
    .all [upd fun s => { s with mesh := s.mesh.filter fun m => !mine m },
          .each (s.mesh.filter mine) fun m => .all [
            match m.pay with | .opa c => (match c.entry with | some e => freeEntry m.org.core e | none => .done) | _ => .done,
            acknowledge m.org.core m.org none true]]

/-- Accepted commands of a gang that have not started are discarded. -/
def dropQueued (g : Nat) : Act :=
  .get fun s => .each s.cores fun c => .each (c.2.opa.filter fun e => e.org.gang == g && e.cmd.op != 0 && e.started.isNone) fun e => .all [
    match e.cmd.entry with | some h => freeEntry e.org.core h | none => .done, dropOpa c.1 e]

/-- `GRELEASE` (R96, R305): ignored for a gang that the function does not own. -/
def execGrelease (f gang : Nat) (s : State) : Host.Outcome State Fault Refusal :=
  stepWith (.get fun s => match s.gang? gang with
    | none => .done
    | some g => .when (g.func == f && g.dispatched && s.barOpen f) (.all [
        modGang gang fun g => { g with released := true }, stopHalyard g, dropCommands gang, dropQueued gang])) s

/-- Nothing that a gang dispatched is in flight. -/
def State.gangQuiet (s : State) (g : Gang) : Bool :=
  (s.rowsOfGang g.id).all (fun r => (s.row? r.1 r.2).all (fun x => x.outst == 0) && !s.isOpen r.1 r.2)
    && g.allCores.all (fun c => (s.coreSt c).halyard.all fun e => e.2.org.gang != g.id)
    && !s.mesh.any fun m => m.org.gang == g.id

/-- A gang ends: every row halted, or, after its release write, each halted, trapped or stopped; and nothing in flight. -/
def State.gangEnds (s : State) (g : Gang) : Bool :=
  g.dispatched && s.gangQuiet g && (s.rowsOfGang g.id).all fun r =>
    let c := s.code r.1 r.2
    c == 4 || (g.released && (c == 5 || c == 6))

/-- A gang's rows, cores, table entries, claims and tiles are released; its system-call records are orphaned. -/
def endGang (g : Gang) : Act :=
  .all [upd fun s => { s with
          gangs := s.gangs.filter fun x => x.id != g.id, rows := s.rows.filter fun r => r.2.gang != g.id
          groupTab := (List.range g.groups).foldl (fun t i => Tab.erase t (256 * g.func + g.gbase + i)) s.groupTab
          guard := s.guard.filter fun a => !g.allCores.contains (a / 2 ^ 32)
          snaps := s.snaps.filter fun e => e.gang != g.id
          forks := s.forks.filter fun k => !g.allCores.contains k.core
          mesh := s.mesh.filter fun m => m.org.gang != g.id },
        .each g.allCores fun c => .all [
          modCore c fun x => { x with armed := [], cdone := [], sentUp := [], pool := [], viewRsv := [] },
          .each (List.range 4) fun t => freeIfEnded c t],
        modFunc g.func fun x => { x with calls := (x.calls.filter fun c => c.org.gang != g.id || c.posted).map fun c =>
          if c.org.gang == g.id then { c with orphan := true } else c }]

/-- `GANG_END` (R96). -/
def execGangEnd (gang : Nat) (s : State) : Host.Outcome State Fault Refusal :=
  stepWith (.get fun s => match s.gang? gang with
    | none => .done
    | some g => .when (s.gangEnds g) (.all [
        endGang g, upd fun s => { s with settled := (g.func, g.qid, g.index) :: s.settled },
        owe g.func g.qid 1 0, freeCheck g.func g.qid])) s

/-- The Halyard commands of a gang that its queues have not accepted, that is begun, are discarded; the others go on (R364, log 110). -/
def dropHalyard (g : Gang) : Act :=
  .get fun s => .each g.allCores fun c => .each (s.coreSt c).halyard fun e =>
    .when (e.2.org.gang == g.id && !e.2.rsv && !e.2.unstarted && !e.2.inFlight && !e.2.chunk && e.2.prog == 0) (.all [
      finishEntry c e.1, upd fun s => { s with mesh := s.mesh.filter fun m => !(m.src == c && m.pay == .chunk e.1) },
      match e.2.opa with
      | some q => match s.opaEntry c q with | some x => dropOpa c x | none => .done
      | none => .done])

/-- A gang is stopped by the device (R364, R369, R391). -/
def stopGang (g : Gang) (reason core : Nat) : Act :=
  .all [stopRows g.id, dropHalyard g, dropCommands g.id, reportGang g.func g.id reason g.qid g.index core]

end Sys2Proof.Machine
end

