-- ==== Sys2Proof/Machine/Stop.lean ====
section
/-!
DEFINITION. The tenant stop, the context save and the resume (R103 to R107, R271, R356 to R359), and D3hot (R326).
-/

namespace Sys2Proof.Machine

/-! ### Contexts -/

/-- The cores of a function's partitions, ascending (R106). -/
def State.contextCores (s : State) (f : Nat) : List Nat := (List.range 256).filter (s.ownsCore f)

/-- CTXAREA of a function (R307). -/
def State.ctxArea (s : State) (f : Nat) : Nat := bits (s.funcWord f 2) 51 12 * 4096

/-- A context area can be used (R357, R358). -/
def State.areaUsable (s : State) (f : Nat) : Bool := s.ckeyUsable f && s.ctxArea f != 0

/-- TSTAT (R357). -/
def tstat : Nat := Space.bar 0 0x1002C
def State.stopBusy (s : State) : Bool := bit (s.bar 0 0x1002C 4) 31
def setBusy (b : Bool) : Act := putBits tstat 4 31 31 b.toNat
def setFailed : Act := putBits tstat 4 30 30 1

/-- The number of Mainstay's own accesses, beyond the cores. -/
def saveUnit : Nat := 257

/-- Context-save requests of a core, or of Mainstay (R105, R130): writes of 64-byte units at a physical address under the key of the context,
urgent from their issue. No command has dispatched them. -/
def saveWrite (f core pa : Nat) (bs : List (Byte × Bool)) : Act :=
  upd fun s =>
    let units := beats 64 (bs.length / 64 + 2) pa 0 bs.length
    { s with
      nextAcc := s.nextAcc + units.length
      accs := s.accs ++ units.zipIdx.map fun u =>
        { Acc.fresh (s.nextAcc + u.2) core 64 (HEntry.blank { Origin.device core with func := f }) { elem := 0, va := 0, size := u.1.2, loc := 0 } true with
          pa := pa + u.1.1, key := s.keyOf (s.ckey f), ord := 2, state := .ready, since := s.cycle, unread := false
          data := (bs.drop u.1.1).take u.1.2 } }

/-- Context-save requests of a function are outstanding. -/
def State.saving (s : State) (f : Nat) : Bool := s.accs.any fun a => a.entry == 64 && a.func == f

/-- Bytes without marks. -/
def clean (bs : List Byte) : List (Byte × Bool) := bs.map fun b => (b, false)

/-! ### Requests (R103, R107, R357, R358) -/

/-- A partition node over a core is assigned to a function other than `f`. -/
def State.takenFrom (s : State) (f core : Nat) : Bool :=
  (List.range 9).any fun k =>
    let e := s.bar 0 (0x11800 + 2 * ((256 + core) / 2 ^ k)) 2
    bit e 15 && e % 1024 != f

/-- A resume of a function is refused (R358): nodes that are merely unassigned do not stand in its way (R107). -/
def State.resumeRefused (s : State) (f : Nat) : Bool :=
  !s.areaUsable f || (s.contexts.find? fun c => c.func == f).any fun c =>
    c.cores.any fun x => s.takenFrom f x.1 || (s.gangOn? x.1).isSome || (s.coreSt x.1).disabled

/-- A refused resume is reported. -/
def refuseResume (f : Nat) : Act := .all [setFailed, reportGang f 0 0x21 0 0 0]

/-- A stop time of a context at least 4,096 ns ahead is announced (R103, R357). How much later than that is open (log 4). -/
def announceStop (f : Nat) : Act :=
  .get fun s =>
    .when (!s.stopBusy) (
      if !s.areaUsable f then setFailed
      else free fun v => .all [
        upd fun s => { s with stop := some { func := f, resume := false, time := s.time + 4096 + v, cores := s.contextCores f,
                                             flushed := false, buffer := [], saved := [] } },
        setBusy true, putBits tstat 4 9 0 f])

/-- `TSTOP_STOP` (R103, R357). -/
def execTstopStop (f : Nat) (s : State) : Host.Outcome State Fault Refusal := stepWith (announceStop f) s

/-- `TSTOP_RESUME` (R107, R358): a resume time is announced, or the resume refused. -/
def execTstopResume (f : Nat) (s : State) : Host.Outcome State Fault Refusal :=
  stepWith (.get fun s =>
    .when (!s.stopBusy) (
      if s.resumeRefused f then refuseResume f
      else free fun v => .all [
        upd fun s => { s with stop := some { func := f, resume := true, time := s.time + v,
                                             cores := ((s.contexts.find? fun c => c.func == f).elim [] fun c => c.cores.map (·.1)),
                                             flushed := false, buffer := [], saved := [] } },
        setBusy true, putBits tstat 4 9 0 f])) s

/-! ### The stop cycle (R103, R271) -/

/-- k steps of an MXMUL that have begun by a cycle. -/
def OpaEntry.stepsDone (e : OpaEntry) (cycle : Nat) : Nat :=
  match e.started with
  | none => 0
  | some s =>
    let m := max e.cmd.mulCycles 1
    min e.cmd.kn (((cycle + 1 - s) * e.cmd.kn + m - 1) / m)

/-- A command in execution is brought to its stop point, or to where it goes on from. Drains begin no group from the stop cycle on, and fills
write none. -/
def stopOpa (core : Nat) (e : OpaEntry) : Act :=
  .get fun s => match e.started with
    | none => .done
    | some st => match e.cmd.op with
      | 0x71 =>
        let n := e.stepsDone s.cycle
        let c := e.cmd
        .when (n < c.kn && e.done == 0) (
          let part := { c with b := c.b % 2 ^ 48 + n * 2 ^ 48 }
          let rest := { c with b := c.b % 2 ^ 32 + (c.k0 + n) * 2 ^ 32 + (c.kn - n) * 2 ^ 48, imm := if n = 0 then c.imm else c.imm - c.imm % 2 }
          let marks := s.newMarks core part [] false
          .all [.when (n != 0) (writeLocal core ((s.newTile core part []).zipIdx.flatMap fun x =>
                  pbytes (tileAddr e.tile + 4 * x.2) 4 x.1 (marks.contains x.2))),
                modOpa core e.seq fun x => { x with cmd := rest, started := none, work := [], marks := [] }])
      | 0x75 => .when (s.cycle ≤ st + 127) (modOpa core e.seq fun x => { x with started := none, work := [], marks := [] })
      | _ => .done

/-- Capstan's part of a stop: no record of the context is selected, and gangs in binding are released with their records kept. -/
def stopCapstan (f : Nat) : Act :=
  .get fun s => .when (!(s.func f).halted) (.all [
    modFunc f fun x => { x with halted := true },
    .each s.binding fun b => match s.gang? b.gang with
      | some g => .when (g.func == f) (unbind g)
      | none => .done])

/-- `STOP_DEADLINE` (R104): rows that have not reached a boundary are closed by force; those of R66 drain (R356). -/
def execStopDeadline (core : Nat) (s : State) : Host.Outcome State Fault Refusal :=
  stepWith (.get fun s => match s.stop with
    | none => .done
    | some t => .when (!t.resume && t.time + 8192 ≤ s.time && t.cores.contains core)
        (.each (s.slots.filter fun x => x.core == core) fun x => forceClose core x.rid)) s

/-- The OPA of a core has reached its stop points. -/
def State.opaStopped (s : State) (core : Nat) : Bool :=
  (s.coreSt core).opa.all fun e => e.started.isNone
    || (e.cmd.mem && !e.cmd.fill) || (e.cmd.mem && e.cmd.fill && e.verified.isNone)
    || ((e.cmd.op == 0x72 || (e.cmd.op == 0x77 && !e.cmd.fill)) && e.done == e.begun.length && e.parts.isEmpty && e.done < e.cmd.groups)
    || (e.cmd.fill && e.done < 8 && s.pausedFill core e)

/-- Every row of a core is closed, and its Halyard queue and OPA are quiet. -/
def State.coreQuiet (s : State) (core : Nat) : Bool :=
  !(s.slots.any fun x => x.core == core) && (s.coreSt core).halyard.all (fun e => !e.2.chunk)
    && !(s.accs.any fun a => a.core == core) && s.opaStopped core

/-- `CORE_QUIESCENT` (R104): the core reports; once every core has, the flush token sweeps the context's packets. -/
def execCoreQuiescent (core : Nat) (s : State) : Host.Outcome State Fault Refusal :=
  stepWith (.get fun s => match s.stop with
    | none => .done
    | some t =>
      .when (!t.resume && t.cores.contains core && (s.coreSt core).stopping.isSome && !(s.coreSt core).quiet && s.coreQuiet core) (.all [
        modCore core fun c => { c with quiet := true },
        .get fun s => .when (t.cores.all fun c => (s.coreSt c).quiet) (
          let mine (m : Msg) : Bool := t.cores.contains m.src || t.cores.contains m.dst
          upd fun s => { s with
            mesh := s.mesh.filter fun m => !mine m
            stop := some { t with flushed := true, buffer := s.mesh.filter mine } })])) s

/-! ### The context area (R105, R106) -/

/-- The 64-byte form of a queue entry (R126). -/
def HEntry.form (h : HEntry) : List Byte :=
  leBytes 1 h.kind ++ leBytes 1 (h.acq.toNat + 2 * h.rel.toNat + 4 * h.dl.toNat + 8 * h.rsv.toNat)
    ++ leBytes 1 (h.ascope % 8 + h.rscope % 8 * 8) ++ leBytes 1 h.etype ++ leBytes 4 h.len ++ leBytes 8 h.src ++ leBytes 8 h.dst
    ++ leBytes 4 h.rbar ++ leBytes 4 h.sbar ++ leBytes 4 h.prog ++ leBytes 4 h.aux ++ leBytes 8 h.org.word ++ leBytes 16 0

/-- An entry as its form in the area gives it, with the row and LSID of ORIGIN; what the form does not hold stays. -/
def HEntry.ofForm (h : HEntry) (r : List Byte) : HEntry :=
  let fl := fieldOf r 1 1
  let sc := fieldOf r 2 1
  { h with
    kind := fieldOf r 0 1, acq := bit fl 0, rel := bit fl 1, dl := bit fl 2, rsv := bit fl 3, ascope := sc % 8, rscope := sc / 8 % 8
    etype := fieldOf r 3 1, len := fieldOf r 4 4, src := fieldOf r 8 8, dst := fieldOf r 0x10 8, rbar := fieldOf r 0x18 4
    sbar := fieldOf r 0x1C 4, prog := fieldOf r 0x20 4, aux := fieldOf r 0x24 4, inFlight := false, chunk := false
    org := { h.org with rid := fieldOf r 0x2A 2 % 512, lsid := fieldOf r 0x28 2 / 4096 % 16 } }

/-- The Halyard queue of a core as the area gives it, over what was kept of its entries in forms that the spec does not give. -/
def restoreQueue (core func : Nat) (kept : List (Nat × HEntry)) (order : Nat) (form : Nat → List Byte) : List (Nat × HEntry) :=
  ((List.range 64).map fun i =>
    (i, ((Tab.find? kept i).getD { HEntry.blank { Origin.device core with func := func } with order := order + i }).ofForm (form i))).filter
      fun e => e.2.kind != 0

/-- TRCTL as a number (R154). -/
def CoreSt.trctl (c : CoreSt) : Nat := c.trEn.toNat * 2 ^ 31 + c.trWrap.toNat * 2 ^ 30 + c.trNext

/-- The row state held outside memory (R105). -/
def State.rowState (s : State) (core : Nat) : List Byte :=
  let c := s.coreSt core
  let row (r : Nat) : Option RowSt := s.row? core r
  (List.range 512).flatMap (fun r => leBytes 2 ((row r).elim 0 (·.outst)))
    ++ leBytes 64 (((List.range 512).filter fun r => (row r).any (·.trapBit)).map fun r => 2 ^ r).sum
    ++ (List.range 32).flatMap (fun i => leBytes 4 (c.cdone.getD i 0))
    ++ (List.range 8).flatMap (fun b => leBytes 4 (c.bconf.getD b 0)) ++ leBytes 4 c.hyctl ++ leBytes 4 c.trctl
    ++ leBytes (4096 - 0x4C0 - 40) 0

/-- Bytes of a core's range with their marks. -/
def State.marked (s : State) (core a n : Nat) : List (Byte × Bool) :=
  (List.range n).map fun i => (s.byte (Space.loc core (a + i)), s.poisoned (Space.loc core (a + i)))

/-- A tile's spill with the marks of its elements. -/
def State.spillMarked (s : State) (core t : Nat) (img : List Byte) : List (Byte × Bool) :=
  (s.spillOf core t img false (bits (s.own core t) 23 16)).zipIdx.map fun b => (b.1, 64 ≤ b.2 && s.poisoned (Space.loc core (tileAddr t + (b.2 - 64))))

/-- Address of core part `n` (R106). -/
def corePart (area n : Nat) : Nat := area + 0x100000 + 0x900000 * n

/-- Keys at which two memories in canonical form differ. -/
def diffKeys : Nat → List Host.Cell → List Host.Cell → List Nat
  | 0, _, _ => []
  | _ + 1, as, [] => as.map (·.1)
  | _ + 1, [], bs => bs.map (·.1)
  | n + 1, a :: as, b :: bs =>
    if a.1 = b.1 then (if a.2 = b.2 then diffKeys n as bs else a.1 :: diffKeys n as bs)
    else if a.1 < b.1 then a.1 :: diffKeys n as (b :: bs) else b.1 :: diffKeys n (a :: as) bs

/-- The granule of a key that the log covers: 8,192 of local SRAM, 8,192 of operand SRAM, 32 groups of tile rows (R365). -/
def logGranule (k : Nat) : Nat :=
  let a := k % 2 ^ 32
  if a < 0x200000 then a / 256 else if a < 0x01200000 then 8192 + (a - 0x01000000) / 256 else 16384 + (a - 0x01200000) / 8192

/-- Local address and length of a granule, and the offset of its copy in a core's part (R365). -/
def granulePlace (g : Nat) : Nat × Nat × Nat :=
  if g < 8192 then (256 * g, 256, 0x481000 + 256 * g)
  else if g < 16384 then (0x01000000 + 256 * (g - 8192), 256, 0x681000 + 256 * (g - 8192))
  else (0x01200000 + 8192 * (g - 16384), 8192, 0x881000 + 8192 * (g - 16384))

/-- The three fields of granule bits in a core's part: first granule, granules, offset (R365). -/
def logMaps : List (Nat × Nat × Nat) := [(0, 8192, 0x480000), (8192, 8192, 0x480400), (16384, 32, 0x480800)]

/-- Granules of a core that the step has written, or changed, and the log in memory does not hold (R365). -/
def State.unlogged (s : State) (x : Snap) : List Nat :=
  let mine := snapKey x.core (x.tiles.map (·.1))
  let now := s.mem.filter fun c => mine c.1
  let touched := (x.touched.map (Space.loc x.core)).filter mine
  (((touched ++ diffKeys (now.length + x.cells.length) now x.cells).map logGranule).filter fun g => !(x.logged.getD []).contains g).eraseDups

/-- The copy-on-write log of a core in its part of the context area (R365): a snapshot point clears the bits; then each granule that is written
has its prior contents copied and its bit set, which takes no time of its own (log 78). The copies are requests like those of a save. -/
def keepLog (x : Snap) : Act :=
  .get fun s => match s.gang? x.gang with
    | none => .done
    | some g =>
      let f := g.func
      let new := s.unlogged x
      let all := x.logged.getD [] ++ new
      let part := corePart (s.ctxArea f) ((List.range x.core).filter (s.ownsCore f)).length
      let old : State := { s with mem := x.cells, poison := x.poison, opsKey := x.opsKey }
      .when (s.areaUsable f && (x.logged.isNone || !new.isEmpty)) (.all [
        upd fun s => { s with snaps := s.snaps.map fun y => if y == x then { y with logged := some all, touched := [] } else y },
        .each new fun n =>
          let p := granulePlace n
          saveWrite f x.core (part + p.2.2) (if 8192 ≤ n ∧ n < 16384 then
              (List.range p.2.1).map fun i => (old.opsByte x.core (p.1 + i), old.poisoned (Space.loc x.core (p.1 + i)))
            else old.marked x.core p.1 p.2.1),
        .each (logMaps.filter fun m => x.logged.isNone || new.any fun n => m.1 ≤ n && n < m.1 + m.2.1) fun m =>
          saveWrite f x.core (part + m.2.2)
            (clean (leBytes (m.2.1 / 8) ((all.filter fun n => m.1 ≤ n && n < m.1 + m.2.1).map fun n => 2 ^ (n - m.1)).sum))])

/-- The logs of all superstep gangs (R365). -/
def keepLogs : Act := .get fun s => .each s.snaps keepLog

/-- A core writes its part (R105). The forms of the OPA queue and of the save buffer, and TIDIMG of a saved tile, are open. -/
def saveCore (f core n : Nat) : Act :=
  .get fun s =>
    let part := corePart (s.ctxArea f) n
    .all [saveWrite f core part (s.marked core 0 (2 ^ 21)),
          saveWrite f core (part + 0x200000) ((List.range (2 ^ 21)).map fun i =>
            (s.opsByte core (0x01000000 + i), s.poisoned (Space.loc core (0x01000000 + i)))),
          .each (List.range 4) fun t =>
            if s.tileState core t != 0 && s.tileTenant core t == f then
              free fun v => saveWrite f core (part + 0x400000 + 65600 * t) (s.spillMarked core t (leBytes 32 v))
            else saveWrite f core (part + 0x400000 + 65600 * t) (clean (leBytes 65600 0)),
          saveWrite f core (part + 0x440100) (s.marked core 0x01300000 0x2000),
          saveWrite f core (part + 0x442100) (clean ((List.range 64).flatMap fun e =>
            match s.entry? core e with | some h => h.form | none => leBytes 64 0)),
          free fun v => saveWrite f core (part + 0x443100) (clean (leBytes 1024 v)),
          free fun v => saveWrite f core (part + 0x443500) (clean (leBytes 16384 v)),
          saveWrite f core (part + 0x447500) (clean (s.rowState core))]

/-- Lines of a cluster assigned to a function (R306). -/
def State.linesOf (s : State) (f cl : Nat) : List Nat :=
  (List.range 64).filter fun l => let e := s.bar 0 (0x12000 + 2 * (64 * cl + l)) 2
    bit e 15 && e % 1024 == f

/-- Clusters that save state (R105). -/
def State.savedClusters (s : State) (f : Nat) (cores : List Nat) : List Nat :=
  (List.range 16).filter fun cl => cores.any (fun c => clusterOf c == cl) || !(s.linesOf f cl).isEmpty

/-- Address of cluster part `cl`. -/
def clusterPart (area cl : Nat) : Nat := area + 0x10000 + 0x2000 * cl

/-- A cluster writes its part; the get-cache is dropped. -/
def saveCluster (f cl : Nat) : Act :=
  .get fun s =>
    let lines := s.linesOf f cl
    .all [saveWrite f saveUnit (clusterPart (s.ctxArea f) cl)
            (clean ((List.range 64).flatMap (fun l => if lines.contains l then s.bytes (lineKey cl l) 64 else leBytes 64 0)
              ++ leBytes 4 (s.clusterSt cl).flagsum.toBits ++ leBytes 4092 0)),
          modCluster cl fun c => { c with lines := [], epoch := (c.epoch + 1) % 2 ^ 32 }]

/-- A GANGS entry of 64 bytes (R106). PRIO is the class under which the gang was selected (log 124). -/
def Gang.form (g : Gang) : List Byte :=
  leBytes 2 g.id ++ leBytes 1 g.qid ++ leBytes 1 (g.superstep.toNat + 2 * g.paired.toNat + 4 * g.pack.toNat) ++ leBytes 2 g.index
    ++ leBytes 2 g.groups ++ leBytes 2 g.cores ++ leBytes 1 g.gbase ++ leBytes 1 g.prio ++ leBytes 2 g.rpc ++ leBytes 1 g.first
    ++ leBytes 1 g.plates ++ leBytes 4 g.opsram ++ leBytes 44 0

/-- The context record (R106). -/
def State.contextRecord (s : State) (t : StopSt) : List Byte :=
  let gangs := (s.gangs.filter fun g => g.func == t.func).map Gang.form
  leBytes 2 1 ++ leBytes 2 t.func ++ leBytes 2 t.cores.length ++ leBytes 2 0 ++ leBytes 8 t.time
    ++ leBytes 32 ((t.cores.map fun c => 2 ^ c).sum) ++ leBytes 4048 0
    ++ (List.range 256).flatMap (fun e => leBytes 32 ((Tab.find? s.groupTab (256 * t.func + e)).getD 0))
    ++ (List.range 256).flatMap (fun i => gangs.getD i (leBytes 64 0)) ++ leBytes 36864 0

/-- What the context holds beside the bytes of its area. -/
def State.savedOf (s : State) (t : StopSt) : Saved :=
  { func := t.func, cores := t.cores.map fun c => (c, s.coreSt c)
    rows := s.rows.filter fun r => t.cores.contains (r.1 / 512), gangs := s.gangs.filter fun g => g.func == t.func
    groupTab := s.groupTab.filter fun e => e.1 / 256 == t.func, buffer := t.buffer
    forks := s.forks.filter fun k => t.cores.contains k.core, snaps := s.snaps.filter fun x => t.cores.contains x.core
    guard := s.guard.filter fun k => t.cores.contains (k / 2 ^ 32) }

/-- After the last core's part come those of the clusters and the context record. -/
def saveRecord (t : StopSt) : Act :=
  .get fun s => .all [
    .each (s.savedClusters t.func t.cores) (saveCluster t.func), saveWrite t.func saveUnit (s.ctxArea t.func) (clean (s.contextRecord t))]

/-- The save is complete (R105, R106, R258): tiles become free, the cores are empty, slots are unmapped, BUSY falls. -/
def finishSave (t : StopSt) : Act :=
  .all [upd fun s => { s with contexts := s.contexts.filter (fun c => c.func != t.func) ++ [s.savedOf t] },
        .get fun s => .each t.cores fun c =>
          .each ((List.range 4).filter fun i => s.tileState c i != 0 && s.tileTenant c i == t.func) fun i =>
            .all [setQcnt c i 0, freeTile c i],
        upd fun s => { s with
          rows := s.rows.filter fun r => !t.cores.contains (r.1 / 512), gangs := s.gangs.filter fun g => g.func != t.func
          groupTab := s.groupTab.filter fun e => e.1 / 256 != t.func
          forks := s.forks.filter fun k => !t.cores.contains k.core, snaps := s.snaps.filter fun x => !t.cores.contains x.core
          guard := s.guard.filter fun k => !t.cores.contains (k / 2 ^ 32)
          capSlots := s.capSlots.filter fun e => e.2.func != t.func, stop := none },
        .each t.cores fun c => modCore c fun x => { x with
          halyard := [], opa := [], pool := [], viewRsv := [], armed := [], cdone := [], sentUp := [], stopping := none, quiet := false },
        setBusy false,
        .get fun s => .when (!s.qpend.isEmpty) (upd fun s => { s with work := .op .queueMapPending :: s.work })]

/-- `STOP_CYCLE` (R103): the first cycle of a core at the stop time. A context without cores has only its record to save. -/
def execStopCycle (core : Nat) (s : State) : Host.Outcome State Fault Refusal :=
  stepWith (.get fun s => match s.stop with
    | none => .done
    | some t =>
      if t.cores.isEmpty then .when (!t.resume && !t.flushed && t.time ≤ s.time)
        (.all [stopCapstan t.func, saveRecord t, upd fun s => { s with stop := some { t with flushed := true } }])
      else .when (!t.resume && t.time ≤ s.time && t.cores.contains core && (s.coreSt core).stopping.isNone) (.all [
        modCore core fun c => { c with stopping := some s.cycle },
        stopCapstan t.func, .each (s.coreSt core).opa (stopOpa core)])) s

/-- `CONTEXT_SAVE` (R105): after the flush a core issues the writes of its part; the last one adds those of the clusters and the record. Once
every write has been performed the save ends. -/
def execContextSave (core : Nat) (s : State) : Host.Outcome State Fault Refusal :=
  stepWith (.get fun s => match s.stop with
    | none => .done
    | some t =>
      .when t.flushed (
        if t.cores.contains core && !t.saved.contains core then
          let u := { t with saved := insertSorted core t.saved }
          .all [saveCore t.func core (t.cores.idxOf core), upd fun s => { s with stop := some u },
                .when (t.cores.all u.saved.contains) (saveRecord u)]
        else .when (t.cores.all t.saved.contains && !s.saving t.func) (finishSave t))) s

/-! ### Resume (R107, R271, R356) -/

/-- The OPA of a core goes on: a fill writes its next group from now (R271). -/
def resumeOpa (core : Nat) : Act :=
  .get fun s => .each ((s.coreSt core).opa.filter (s.pausedFill core)) fun e =>
    modOpa core e.seq fun x => { x with verified := x.verified.map fun _ => s.cycle - 16 - 16 * e.done }

/-- A saved tile is written back, or freed where its spill fails its check (R258, R358). -/
def restoreTile (f core part t : Nat) : Act :=
  .get fun s =>
    let got := s.physRead (some (s.keyOf (s.ckey f))) false (part + 0x400000 + 65600 * t) 65600
    let src := got.map (·.1)
    let st := fieldOf src 0x22 1 % 4
    .when (src.any (· != 0)) (
      if s.spillOk src f then
        .all [putLe (ownKey core t) 8 (st * 2 ^ 62 + fieldOf src 0x28 2 % 1024 * 2 ^ 46 + fieldOf src 0x2A 2 * 2 ^ 30
                + fieldOf src 0x23 1 * 2 ^ 16 + fieldOf src 0x24 2),
              putLe (ownKey core t + 8) 8 (if st = 1 then s.mintCap core (2 ^ t) 0xF (fieldOf src 0x24 2) f else 0),
              putLe (ownKey core t + 20) 4 (fieldOf src 0x2C 4),
              setQcnt core t (((s.coreSt core).opa.filter fun e => e.tile == t).length),
              placeBytes core (tileAddr t) (got.drop 64)]
      else .all [freeTile core t, reportGang f 0 0x20 0 t core])

/-- A core's part is written back to the same places (R105, R107). -/
def restoreCore (f n : Nat) (c : Nat × CoreSt) : Act :=
  .get fun s =>
    let core := c.1
    let key := s.keyOf (s.ckey f)
    let part := corePart (s.ctxArea f) n
    let read (off n : Nat) : List (Byte × Bool) := s.physRead (some key) false (part + off) n
    let state := (read 0x447500 4096).map (·.1)
    .all [placeBytes core 0 (read 0 (2 ^ 21)), placeBytes core 0x01000000 (read 0x200000 (2 ^ 21)),
          upd fun s => { s with opsKey := (List.range (2 ^ 21)).foldl (fun t i => Tab.set t (Space.loc core (0x01000000 + i)) key) s.opsKey },
          placeBytes core 0x01300000 (read 0x440100 0xC00),
          modCore core fun x => { x with
            halyard := restoreQueue core f c.2.halyard c.2.hOrder fun i => (read (0x442100 + 64 * i) 64).map (·.1)
            hOrder := c.2.hOrder + 64, opa := c.2.opa, opaSeq := c.2.opaSeq
            bconf := (List.range 8).map fun b => fieldOf state (0x4C0 + 4 * b) 4, hyctl := fieldOf state 0x4E0 4
            trEn := bit (fieldOf state 0x4E4 4) 31, trWrap := bit (fieldOf state 0x4E4 4) 30, trNext := fieldOf state 0x4E4 4 % 1024
            trace := c.2.trace, cdone := ((List.range 32).map fun i => fieldOf state (0x440 + 4 * i) 4).filter (· != 0), armed := c.2.armed, sentUp := c.2.sentUp, pool := c.2.pool, tlb := [], stopping := c.2.stopping },
          .each (List.range 4) (restoreTile f core part),
          resumeOpa core, modCore core fun x => { x with stopping := none, quiet := false },
          upd fun s => { s with rows := s.rows.map fun r =>
            if r.1 / 512 == core then
              (r.1, { r.2 with outst := fieldOf state (2 * (r.1 % 512)) 2, trapBit := bit (fieldOf state (0x400 + r.1 % 512 / 8) 1) (r.1 % 8) })
            else r }]

/-- A cluster's part is written back: FLAGSUM takes the saved flags, the assigned lines their images (R105, R173). -/
def restoreCluster (f cl : Nat) : Act :=
  .get fun s =>
    let key := s.keyOf (s.ckey f)
    let part := clusterPart (s.ctxArea f) cl
    let read (off n : Nat) : List Byte := (s.physRead (some key) false (part + off) n).map (·.1)
    .all [.each (s.linesOf f cl) fun l => put (lineKey cl l) (read (64 * l) 64),
          modCluster cl fun c => { c with flagsum := Flags.or c.flagsum (Flags.ofBits (fieldOf (read 0x1000 4) 0 4)) }]

/-- Rows that were ready or open at the stop are ready (R107). -/
def readyAgain (rows : List (Nat × RowSt)) : Act :=
  .each rows fun r => .get fun s =>
    let c := s.code (r.1 / 512) (r.1 % 512)
    .when (c == 1 || c == 2) (makeReady (r.1 / 512) (r.1 % 512))

/-- A saved context is back on its cores. -/
def restoreContext (x : Saved) : Act :=
  .all [upd fun s => { s with
          rows := x.rows.foldl (fun t r => Tab.set t r.1 r.2) s.rows, gangs := s.gangs ++ x.gangs
          groupTab := x.groupTab.foldl (fun t e => Tab.set t e.1 e.2) s.groupTab, forks := s.forks ++ x.forks
          snaps := s.snaps ++ x.snaps, guard := x.guard.foldl (fun t k => insertSorted k t) s.guard
          contexts := s.contexts.filter fun c => c.func != x.func },
        .each x.cores.zipIdx fun c => restoreCore x.func c.2 c.1,
        .get fun s => .each (s.savedClusters x.func (x.cores.map (·.1))) (restoreCluster x.func),
        readyAgain x.rows,
        upd fun s => { s with
          mesh := x.buffer ++ s.mesh, work := (x.gangs.filter (·.rollbackDue)).map (fun g => Work.op (.rollback g.id)) ++ s.work }]

/-- `RESUME_TIME` (R107, R358): at T′ the context goes on, or is refused. -/
def execResumeTime (s : State) : Host.Outcome State Fault Refusal :=
  stepWith (.get fun s => match s.stop with
    | none => .done
    | some t =>
      .when (t.resume && t.time ≤ s.time) (.all [
        upd fun s => { s with stop := none }, setBusy false,
        if s.resumeRefused t.func then refuseResume t.func
        else .all [modFunc t.func fun x => { x with halted := false },
                   match s.contexts.find? fun c => c.func == t.func with
                   | some x => restoreContext x
                   | none => .done]])) s

/-- `STOP_ABANDON` (R356): not every core is quiescent 1 ms after T; the context goes on with no save. -/
def execStopAbandon (s : State) : Host.Outcome State Fault Refusal :=
  stepWith (.get fun s => match s.stop with
    | none => .done
    | some t =>
      .when (!t.resume && !t.flushed && t.time + 1000000 ≤ s.time) (.all [
        .each t.cores fun c => .all [resumeOpa c, modCore c fun x => { x with stopping := none, quiet := false }],
        upd fun s => { s with
          stop := none
          work := (s.gangs.filter fun g => g.func == t.func && g.rollbackDue).map (fun g => Work.op (.rollback g.id)) ++ s.work },
        readyAgain ((s.rows.filter fun r => t.cores.contains (r.1 / 512) && !s.isOpen (r.1 / 512) (r.1 % 512))),
        modFunc t.func fun x => { x with halted := false },
        setBusy false, setFailed, msix 0 0])) s

/-! ### D3hot (R326) -/

/-- `D3HOT_ENTRY` (R326): every live context is stopped and saved, one after the other, then the link is lowered. While the stop of one cannot
be performed (R357), the link stays up. -/
def execD3hotEntry (s : State) : Host.Outcome State Fault Refusal :=
  stepWith (.get fun s =>
    if s.stop.isSome then pendOp .d3hotEntry
    else match s.gangs.find? fun g => !(s.func g.func).halted with
      | some g => .all [announceStop g.func, pendOp .d3hotEntry]
      | none => upd fun s => { s with d3hot := true }) s

/-- `D0_ENTRY` (R326): the registers are as they were; no context resumes. -/
def execD0Entry (s : State) : Host.Outcome State Fault Refusal :=
  stepWith (upd fun s => { s with d3hot := false }) s

end Sys2Proof.Machine
end

