-- ==== Sys2Proof/Machine/Superstep.lean ====
section
/-!
DEFINITION. Paired mode (R363, R364) and the rollback of a superstep (R365 to R369).
-/

namespace Sys2Proof.Machine

/-! ### Paired messages (R363) -/

/-- An address in barrier form (R126), its core gang-local. -/
def Gang.localForm (g : Gang) (form : Nat) : Nat := if form = 0 then 0 else 2 ^ 24 * (1 + g.localCore (form / 2 ^ 24 % 256)) + form % 2 ^ 24

/-- Words of bytes with their addresses. -/
def bytesWords (bs : List PByte) : List Nat := bs.flatMap fun b => [b.addr, b.byte.toNat]

/-- Target, address, length and data of a chunk of write data. -/
def State.chunkWords (s : State) (g : Gang) (core : Nat) (h : HEntry) : List Nat :=
  let n := h.chunkBytes
  let data (a n : Nat) : List Nat := (s.sourceBytes core a n).map fun b => b.1.toNat
  if h.toCores then
    (s.targets core h).map g.localCore ++ [h.dst % 2 ^ 21 + h.prog, n] ++ data (h.src % 2 ^ 21 + h.prog) n
  else match h.opa.bind (s.opaEntry core) with
    | some e => [h.dst + h.prog, n] ++ ((e.src.drop h.prog).take n).map (·.toNat)
    | none => (s.pieces core h).flatMap fun p => [p.va, p.size] ++ data p.loc p.size

/-- What the hash of a message is taken over: target, address, length and data. Of a capability, which names a core and its tile's
owner, only the mask and the rights are compared. -/
def State.pairWords (s : State) (g : Gang) (m : Msg) : List Nat :=
  match m.pay with
  | .store a n bs _ => [1, g.localCore m.dst, a, n] ++ bytesWords bs
  | .atomic op _ => [2, g.localCore m.dst, op.cas.toNat, op.fn, op.ty.width, op.addr, op.b, op.c]
  | .arrive a n b e => [3, g.localCore m.dst, a, n, b, e]
  | .signal c l op => [4, c, l, op]
  | .opa c => [5, g.localCore m.dst, c.op, c.fill.toNat, c.imm, bits c.cap 55 48, c.b, c.c] ++ c.images.flatMap (·.map (·.toNat)) ++ bytesWords c.bytes
  | .chunk e => 6 :: (match s.entry? m.src e with | some h => s.chunkWords g m.src h | none => [])
  | .post _ svc a0 a1 reply rbar => [7, svc, a0, a1, reply, g.localForm rbar]
  | _ => [0]

/-- The hash of a message. -/
def State.pairHash (s : State) (g : Gang) (m : Msg) : Nat := Config.hash64 (s.pairWords g m)

/-- The partner of a message, and its place in the mesh. -/
def State.partner (s : State) (t : PairTag) : Option (Nat × Msg) :=
  (s.mesh.zipIdx.find? fun m => m.1.pair == some { t with copyB := !t.copyB } && !m.1.held).map fun m => (m.2, m.1)

/-- Let go of what a message held that is not performed: its Halyard entry, or its system-call record. -/
def letGo (m : Msg) : Act :=
  match m.pay with
  | .opa c => (match c.entry with | some e => freeEntry m.org.core e | none => .done)
  | .post i .. => modFunc m.org.func fun x => { x with calls := x.calls.filter fun c => c.index != i }
  | _ => .done

/-- Take the message of a tag out of the mesh without performing it: to its row it counts as acknowledged. -/
def dropPaired (m : Msg) : Act :=
  .all [upd fun s => { s with mesh := s.mesh.filter fun x => x.pair != m.pair }, letGo m, .when m.counted (acknowledge m.org.core m.org none true)]

/-- The message of copy B has been matched with that of copy A: inside the gang each is delivered on its own copy's core, whichever the program
named; outside, copy A's is performed for both, and acknowledged to both, with its condition, when it has been performed; a destination in
another paired gang gets it on both copies' cores, in the place that it has among the messages of its way. A posting is made by copy A, and a
chunk of write data to global memory is performed by copy A's command for both. -/
def matchPair (g : Gang) (a b : Msg) : Act :=
  let clear (m : Msg) : Act := upd fun s => { s with mesh := s.mesh.map fun x => if x.pair == m.pair then { x with pair := none } else x }
  let deliver (m : Msg) (copyB : Bool) : Act := upd fun s => { s with mesh := s.mesh.map fun x =>
    if x.pair == m.pair then { x with pair := none, dst := g.inCopy copyB x.dst } else x }
  let once : Act := .all [
    upd fun s => { s with mesh := (s.mesh.filter fun x => x.pair != b.pair).flatMap fun x =>
      if x.pair == a.pair then
        let y : Msg := { x with pair := none, org := { x.org with twin := some (b.org.core, b.org.rid, b.org.seq) } }
        y :: (s.secondCopy y).toList
      else [x] },
    letGo b]
  match a.pay, b.pay with
  | .post i svc a0 a1 reply rbar, .post j _ _ _ _ _ => .all [
      upd fun s => { s with mesh := s.mesh.filter fun x => x.pair != a.pair && x.pair != b.pair },
      postCall a.org.core a.org.rid i svc a0 a1 reply rbar a.org,
      modFunc b.org.func fun x => { x with calls := x.calls.filter fun c => c.index != j },
      .when b.counted (acknowledge b.org.core b.org none true)]
  | .chunk e, .chunk d => .all [clear a, clear b, .get fun s =>
      .when ((s.entry? a.src e).any (!·.toCores)) (.all [
        modEntry a.src e fun h => { h with pairEntry := some (b.src, d), await := false },
        modEntry b.src d fun h => { h with pairEntry := some (a.src, e), await := true }])]
  | .signal .., _ => once
  | _, _ => if g.holds a.dst then .all [deliver a false, deliver b true] else once

/-- The router of a core of copy A compares its messages with copy B's: a match goes on; a mismatch, or a wait of more than 65,536
cycles, is left to `PAIR_MISMATCH` and `PAIR_TIMEOUT`. -/
def comparePairs : Act :=
  .get fun s => .each (s.mesh.zipIdx.filter fun m => !m.1.held && m.1.pair.isSome) fun m =>
    match m.1.pair with
    | none => .done
    | some t => match s.gang? t.gang, s.partner t with
      | some g, some b =>
        .when (!t.copyB) (
          if s.pairHash g m.1 == s.pairHash g b.2 then matchPair g m.1 b.2
          else upd fun s => { s with work := .op (.pairMismatch m.2) :: s.work })
      | some _, none => .when (m.1.since + 65536 < s.cycle) (upd fun s => { s with work := .op (.pairTimeout m.2) :: s.work })
      | _, _ => .done

/-- A mismatch of a message (R364): it is not performed; the step is rolled back, or the gang stopped. -/
def mismatch (m : Msg) (t : PairTag) (other : Option Msg) : Act :=
  .all [dropPaired m, match other with | some b => dropPaired b | none => .done,
        .get fun s => match s.gang? t.gang with
          | none => .done
          | some g =>
            if s.rollsBack g.id then startRollback g.id
            else stopGang g 0x10 (if t.copyB then g.first + g.localCore m.src else m.src)]

/-- `PAIR_MISMATCH` (R364): the hashes of paired messages differ. -/
def execPairMismatch (k : Nat) (s : State) : Host.Outcome State Fault Refusal :=
  stepWith (.get fun s => match s.mesh[k]? with
    | none => .done
    | some m => match m.pair with
      | none => .done
      | some t => match s.gang? t.gang, s.partner t with
        | some g, some b => .when (!m.held && s.pairHash g m != s.pairHash g b.2) (mismatch m t (some b.2))
        | _, _ => .done) s

/-- `PAIR_TIMEOUT` (R364): a message has waited more than 65,536 cycles for its partner. -/
def execPairTimeout (k : Nat) (s : State) : Host.Outcome State Fault Refusal :=
  stepWith (.get fun s => match s.mesh[k]? with
    | none => .done
    | some m => match m.pair with
      | none => .done
      | some t => .when (!m.held && (s.partner t).isNone && m.since + 65536 < s.cycle) (mismatch m t none)) s

/-! ### Rollback (R367 to R369) -/

/-- A flip of the gang's superstep barrier is on its way to a core: the step has not begun there, and nothing of it is to be undone. -/
def State.flipDue (s : State) (g : Gang) (core : Nat) : Bool :=
  s.mesh.any fun m => m.dst == core && match m.pay with | .flip c a => g.barrier == some (c, a) | _ => false

/-- Something of a row was dispatched in the step: above the dispatch number of its snapshot point. -/
def State.inStep (s : State) (org : Origin) (seq : Nat) : Bool :=
  match (s.snaps.find? fun x => x.core == org.core).bind fun x => Tab.find? x.rows (512 * org.core + org.rid) with
  | some r => seq = 0 || r.nextSeq < seq
  | none => true

/-- A discarded packet carried a beat of an access. -/
def Msg.beatOf (m : Msg) (id : Nat) : Bool := match m.pay with | .store _ _ _ (some i) | .atomic _ (some i) => i == id | _ => false

/-- A discarded packet carried the plate command that an entry was reserved for. -/
def Msg.transferOf (m : Msg) (core e : Nat) : Bool := m.org.core == core && match m.pay with | .opa c => c.entry == some e | _ => false

/-- Step 2 and 3 on a core: its slots, reserved entries, commands and accesses of the step are discarded, and what the discarded packets `lost`
were to do for earlier ones (log 154); its rows leave the event lines. -/
def dropStep (core : Nat) (lost : List Msg) : Act :=
  .get fun s =>
    let gone := (s.coreSt core).halyard.filter fun e => e.2.rsv || s.inStep e.2.org (s.entrySeq core e.2) || lost.any fun m => m.transferOf core e.1
    .all [.each ((s.slots.filter fun x => x.core == core).filterMap fun x => x.inst.exit.map fun e => (x.rid, e)) fun e => dropWait core e.1 e.2,
          .each (s.rowsOf core) fun r => .when (s.code core r == 3) (bumpWaiters core r false),
          upd fun s => { s with
            slots := s.slots.filter fun x => x.core != core
            accs := s.accs.filter fun a => !(a.core == core && gone.any fun e => e.1 == a.entry) && !lost.any fun m => m.beatOf a.id },
          modCore core fun c => { c with halyard := c.halyard.filter fun e => !gone.any fun x => x.1 == e.1, viewRsv := [] },
          .each ((s.coreSt core).opa.filter fun e => s.inStep e.org e.org.seq) fun e => dropOpa core e]

/-- A message that a rollback discards: every one of the gang's rows, held or on its way (R367), and its forks, starts and releases. -/
def Gang.dropsMsg (g : Gang) (cores : List Nat) (m : Msg) : Bool :=
  match m.pay with
  | .flip c a => cores.contains m.dst && g.barrier != some (c, a)
  | .start .. | .release _ | .merge .. => cores.contains m.dst
  | _ => m.org.gang == g.id && cores.contains m.org.core

/-- A row's record at its snapshot point, with what a rollback sets (steps 2 and 5); superstep arrivals keep their place while the
step-start notice has not been given. -/
def RowSt.rolled (r : RowSt) (noticed : Bool) : RowSt :=
  { r with outst := 0, pending := [], trapBit := false, held := [], claim := none, early := 0, fences := [], tagged := []
           view := if r.claim.isSome then 0 else r.view, arrived := if noticed then [] else r.arrived }

/-- The pieces of the view pool that forks and task rows of the snapshot hold. -/
def Snap.heldPieces (x : Snap) (forks : List ForkSt) : List (Nat × Nat) :=
  x.pool.filter fun p => forks.any (fun f => (f.core == x.core && f.cell == p.1) || f.tasks.any fun t => t.1 == x.core && t.2.2 == p.1)
    || x.rows.any fun r => r.2.claim.isNone && r.2.view == p.1 && p.1 != 0

/-- Step 4 on a core: every logged granule and tile group is copied back, tiles that the gang still holds with their WMARK. -/
def restoreSnap (g : Gang) (noticed : Bool) (forks : List ForkSt) (x : Snap) : Act :=
  .get fun s =>
    let core := x.core
    let tiles := (s.tilesOf core g.id).filter fun t => x.tiles.any fun u => u.1 == t
    let covered := snapKey core tiles
    .all [wipe (Space.loc core 0) 0x200000, wipe (Space.loc core 0x01000000) 0x200000,
          .each tiles fun t => wipe (Space.loc core (tileAddr t)) 0x10000,
          .each (x.cells.filter fun c => covered c.1) fun c => put c.1 [c.2],
          .each (x.tiles.filter fun t => tiles.contains t.1) fun t => setWmark core t.1 t.2,
          upd fun s => { s with
            poison := (x.poison.filter covered).foldl (fun t k => insertSorted k t) (s.poison.filter fun k => !covered k)
            opsKey := x.opsKey.foldl (fun t e => Tab.set t e.1 e.2) (s.opsKey.filter fun e => e.1 / 2 ^ 32 != core)
            rows := x.rows.foldl (fun t r => Tab.set t r.1 (r.2.rolled noticed)) s.rows },
          modCore core fun c => { c with armed := x.armed, cdone := x.cdone, sentUp := x.sentUp, pool := x.heldPieces forks }]

/-- Step 6 on a core: rows of restored CODE 1 or 2 are ready, and waiting rows whose condition holds, or had held at the snapshot point; the
others wait on, on their event lines too, as a row does that RUNREQ lets wait on (R62). -/
def readyRows (core : Nat) : Act :=
  .get fun s => .each (s.rowsOf core) fun r => .get fun s =>
    let c := s.code core r
    if c = 1 ∨ c = 2 then makeReady core r
    else .when (c == 3) (if (s.row? core r).any (·.wake) then .all [clearWait core r, makeReady core r]
      else .all [setCode core r 6, runClosed core r])

/-- A rollback of a gang's step, on every core where the step has begun. Before the first flip no core has a snapshot point: the rows run again
from where they stand (log 130). -/
def rollBack (g : Gang) : Act :=
  .get fun s =>
    let snaps := if g.barrier.isNone then g.allCores.map (s.snapOf g.id)
      else s.snaps.filter fun x => x.gang == g.id && !s.flipDue g x.core
    let cores := snaps.map (·.core)
    let noticed := g.snapshots.isEmpty
    let old := s.forks.filter fun f => cores.contains f.core
    let new := snaps.flatMap (·.forks)
    let mine (c : SysRecord) : Bool := !c.posted && c.org.gang == g.id && cores.contains c.org.core
    .all [modGang g.id fun x => { x with rollbacks := x.rollbacks + 1, rollbackDue := false },
          upd fun t => { t with mesh := t.mesh.filter fun m => !g.dropsMsg cores m },
          .each cores fun c => dropStep c (s.mesh.filter (g.dropsMsg cores)),
          modFunc g.func fun x => { x with calls := x.calls.filter fun c => !mine c },
          .each snaps (restoreSnap g noticed new),
          .each old fun f => .each f.slots fun v => putBits (viewKey f.core v + 8) 8 63 62 1,
          .each new fun f => .each f.slots fun v => putBits (viewKey f.core v + 8) 8 63 62 2,
          upd fun s => { s with forks := s.forks.filter (fun f => !cores.contains f.core) ++ new },
          .each cores readyRows,
          .get fun s => putLe (Space.bar g.func 0x80) 4 ((s.bar g.func 0x80 4 + 1) % 2 ^ 32)]

/-- The units of 64 bytes of a core's log that a restore reads, and the local address of what each holds; none for the granule bits (R365). -/
def State.logUnits (s : State) (g : Gang) (x : Snap) : List (Nat × Option Nat) :=
  let part := corePart (s.ctxArea g.func) ((List.range x.core).filter (s.ownsCore g.func)).length
  logMaps.flatMap (fun m => (List.range ((m.2.1 / 8 + 63) / 64)).map fun i => (part + m.2.2 + 64 * i, none))
    ++ (x.logged.getD []).flatMap fun n =>
      let p := granulePlace n
      (List.range (p.2.1 / 64)).map fun i => (part + p.2.2 + 64 * i, some (p.1 + 64 * i))

/-- The units of a log are read (R369): `bad` at an uncorrectable error, which an injection brings, or which has left a mark that the snapshot did
not hold. Errors count on their stacks too (R379, R390). -/
def readLog (f : Nat) (x : Snap) (k bad : Act) : List (Nat × Option Nat) → Act
  | [] => k
  | u :: us => .get fun s =>
    let d := s.detector u.1
    let own := u.2.any fun a => x.poison.any fun p => Space.loc x.core a ≤ p && p < Space.loc x.core a + 64
    let met (ue : Bool) : Act := .all [useInjection, reportError d.1 d.2 f u.1 ue true false, .when (d.1 == 7) (hbmError u.1 ue)]
    if s.poisoned (s.homeKey (Space.phys u.1)) && !own then bad
    else match s.injects d.1 d.2 u.1 with
      | some 1 => .all [met false, readLog f x k bad us]
      | some 2 => .all [poisonAt (s.homeKey (Space.phys u.1)), met true, bad]
      | _ => readLog f x k bad us

/-- `ROLLBACK` (R367, R369): the barrier's core orders it on every core of the gang; the fourth in a row, or an uncorrectable error
in the log, stops the gang instead. After a stop cycle it is held for the resume. -/
def execRollback (gang : Nat) (s : State) : Host.Outcome State Fault Refusal :=
  stepWith (.get fun s => match s.gang? gang with
    | none => .done
    | some g =>
      let core := g.barrier.elim g.first (·.1)
      if !g.superstep then .done
      else if (s.func g.func).halted then modGang gang fun x => { x with rollbackDue := true }
      else if 3 ≤ g.rollbacks then stopGang g 0x11 core
      else (s.snaps.filter fun x => x.gang == gang).foldr
        (fun x k => readLog g.func x k (stopGang g 0x12 core) (s.logUnits g x)) (rollBack g)) s

end Sys2Proof.Machine
end

