-- ==== Sys2Proof/Machine/Host.lean ====
section
/-!
DEFINITION. The host link's registers (R304 to R307, R8, R10), keys (R316), capabilities (R306), partitions (R85, R306), repairs
and disabled cores (R390, R391), module reset (R325, R401), the clock (R326) and link training (R304).
-/

namespace Sys2Proof.Machine

/-! ### Register maps (R305 to R307) -/

/-- A field map of a register or of a table of registers: first offset, bytes of an entry, number of entries, the bits a write
replaces and the bits a written 1 clears. -/
structure RegMap where
  off : Nat
  bytes : Nat
  count : Nat
  rw : Nat
  w1c : Nat
  deriving DecidableEq, Repr

/-- A field of ones `[hi:lo]`. -/
def ones (hi lo : Nat) : Nat := 2 ^ (hi + 1) - 2 ^ lo

/-- The register page of every function (R305). A base that must be a multiple of a power of two holds no bits below it. -/
def pageMap : List RegMap :=
  [⟨0x08, 8, 1, ones 63 14, 0⟩, ⟨0x38, 8, 1, ones 50 12, 0⟩, ⟨0x40, 8, 1, ones 15 0, 0⟩, ⟨0x58, 8, 1, ones 50 12, 0⟩,
   ⟨0x60, 8, 1, ones 47 32 + ones 15 0, 0⟩, ⟨0x70, 8, 1, 0, 3⟩, ⟨0x78, 8, 1, 0, 3⟩, ⟨0x88, 16, 1, ones 127 0, 0⟩]

/-- Word 0 to 3 of LEASE and EXPORT entries (R136, R324). -/
def leaseMask : Nat :=
  ones 63 62 + ones 59 48 + ones 46 32 + ones 21 0 + ones 51 21 * 2 ^ 64 + ones 51 21 * 2 ^ 128 + ones 63 0 * 2 ^ 192

/-- FUNCTAB entries (R307). -/
def functabMask : Nat := ones 63 63 + ones 51 12 + ones 15 0 * 2 ^ 64 + ones 51 12 * 2 ^ 128 + ones 9 0 * 2 ^ 192

/-- The registers of the physical function alone that have no behaviour of their own (R306, R81, R322, R323, R357, R379, R389,
R392, R394). -/
def physMap : List RegMap :=
  [⟨0x10000, 4, 1, 0, 1⟩, ⟨0x1002C, 4, 1, 0, ones 30 30⟩, ⟨0x10038, 8, 1, ones 63 0, 0⟩, ⟨0x10040, 8, 1, ones 47 32 + ones 15 0, 0⟩,
   ⟨0x10058, 8, 1, ones 50 12, 0⟩, ⟨0x10060, 8, 1, ones 47 32 + ones 15 0, 0⟩, ⟨0x10068, 8, 1, ones 63 0, 0⟩,
   ⟨0x10070, 8, 1, 0, ones 60 60⟩, ⟨0x10100, 16, 8, ones 127 80 + ones 63 0, 0⟩, ⟨0x12000, 2, 1024, ones 15 15 + ones 9 0, 0⟩,
   ⟨0x12800, 32, 64, leaseMask, 0⟩, ⟨0x13000, 32, 64, leaseMask, 0⟩, ⟨0x13800, 16, 64, ones 11 0 + ones 15 15 + ones 95 24, 0⟩,
   ⟨0x14000, 32, 513, functabMask, 0⟩, ⟨0x20000, 512, 72, ones 4095 0, 0⟩, ⟨0x29000, 16, 76, ones 111 64 + ones 63 0, 0⟩]

/-- The register that holds an offset, and the offset within its entry. -/
def regAt (f off : Nat) : Option (RegMap × Nat) :=
  ((if off < 0x10000 then pageMap else if f = 0 then physMap else []).find? fun m => m.off ≤ off && off < m.off + m.bytes * m.count).map
    fun m => (m, (off - m.off) % m.bytes)

/-- A write of one byte by the access codes of its bits (R8); reserved and read-only bits keep their values (R10). -/
def writtenByte (f off : Nat) (old new : Byte) : Byte :=
  match regAt f off with
  | none => old
  | some (m, i) =>
    let rw := BitVec.ofNat 8 (m.rw / 2 ^ (8 * i))
    let w1c := BitVec.ofNat 8 (m.w1c / 2 ^ (8 * i))
    (old &&& ~~~rw &&& ~~~(w1c &&& new)) ||| (new &&& rw)

/-! ### Locks (R319, R399) -/

/-- An offset of the physical function's tables lies in an entry of a locked function: FUNCTAB, EVTAB, and every LEASE entry whose LFUNC it is
(R319). -/
def State.lockedAt (s : State) (off : Nat) : Bool :=
  if 0x14000 ≤ off ∧ off < 0x14000 + 32 * 513 then s.locked ((off - 0x14000) / 32)
  else if 0x12000 ≤ off ∧ off < 0x12800 then
    let e := s.bar 0 (off / 2 * 2) 2
    bit e 15 && s.locked (e % 1024)
  else if 0x12800 ≤ off ∧ off < 0x13000 then s.locked (bits (s.lease ((off - 0x12800) / 32) 0) 21 12)
  else false

/-- A compute or operand die that is held in reset keeps FUNCTAB EN clear (R401). -/
def State.diesHeld (s : State) : Bool := s.spdm.any fun d => 1 ≤ d.1 && d.1 ≤ 4 && d.2.held

/-- PCAP is clamped to 600 to 2,600 W (R326). -/
def pcapValue (v : Nat) : Nat := min 2600 (max 600 (v % 65536))

/-- `REGISTER_WRITE` (R8, R10): each byte by its access codes, unless the entry it lies in was locked at the write (R319). SCREPLY takes the reply of the next SCDONE; a write of SCBASE starts
PCOUNT anew (R305). PCAP takes the bytes written, of whatever width and offset the spec leaves open, and is clamped (log 100). -/
def execRegisterWrite (f off width v : Nat) (s : State) : Host.Outcome State Fault Refusal :=
  stepWith (.get fun s =>
    let at' (i : Nat) : Byte := BitVec.ofNat 8 (v / 256 ^ i)
    .when (s.barOpen f) (.all [
      .each ((List.range width).filter fun i => !(f == 0 && s.lockedAt (off + i))) fun i => .get fun s =>
        let a := off + i
        let new := writtenByte f a (s.byte (Space.bar f a)) (at' i)
        let en := 0x14000 ≤ a && a < 0x14000 + 32 * 513 && (a - 0x14000) % 32 == 7 && s.diesHeld
        .when (regAt f a).isSome
          (put (Space.bar f a) [if en then new &&& (0x7F ||| s.byte (Space.bar f a)) else new]),
      .when (off < 0x50 && 0x48 < off + width) (modFunc f fun x => { x with
        reply := leNat ((List.range 8).map fun i =>
          if off ≤ 0x48 + i ∧ 0x48 + i < off + width then at' (0x48 + i - off) else BitVec.ofNat 8 (x.reply / 256 ^ i)) }),
      .when (off < 0x40 && 0x38 < off + width) (putLe (Space.bar f 0x44) 2 0),
      .when (f == 0 && off < 0x1004A && 0x10048 < off + width) (putLe (Space.bar 0 0x10048) 4 (pcapValue (leNat ((List.range 2).map fun i =>
        if off ≤ 0x10048 + i ∧ 0x10048 + i < off + width then at' (0x10048 + i - off) else s.byte (Space.bar 0 (0x10048 + i))))))])) s

/-- Module power in watts at a clock: at most the module's maximum (R28, R326). -/
def State.power (s : State) (clock : Nat) : Nat := min 2600 (Config.power (s.time / 1000000) clock)

/-- PSTAT (R326): the power, and the clock averaged over the last whole millisecond. -/
def State.pstat (s : State) : Nat := s.power s.clock * 65536 + s.clockAvg % 65536

/-- What a read of one byte of a function's BAR0 returns: write-only registers as 0, the minted capability, PSTAT, the pending candidates, the
spare rows left and TDIST in FUNCTAB. -/
def State.regByte (s : State) (f a : Nat) : Nat :=
  if f ≠ 0 then s.bar f a 1
  else if 0x10008 ≤ a ∧ a < 0x10010 then s.capRead / 256 ^ (a - 0x10008) % 256
  else if 0x1004C ≤ a ∧ a < 0x10050 then s.pstat / 256 ^ (a - 0x1004C) % 256
  else if 0x10078 ≤ a ∧ a < 0x10080 then s.candidates.length % 65536 / 256 ^ (a - 0x10078) % 256
  else if 0x10100 ≤ a ∧ a < 0x10180 ∧ (a % 16 = 8 ∨ a % 16 = 9) then s.spareLeft ((a - 0x10100) / 16) / 256 ^ (a % 16 - 8) % 256
  else if 0x14000 ≤ a ∧ a < 0x14000 + 32 * 513 ∧ a % 32 = 7 then s.bar 0 a 1 + (s.func ((a - 0x14000) / 32)).tdi % 4 * 32
  else s.bar 0 a 1

/-- What a read of `n` bytes of a function's BAR0 returns: of a function in ERROR all zeros (R399). -/
def State.regRead (s : State) (f off n : Nat) : Nat :=
  if !s.barOpen f then 0 else ((List.range n).map fun i => 256 ^ i * s.regByte f (off + i)).sum

/-! ### System-call completions (R305) -/

/-- The cores of both copies that stand for a core of a paired gang; else the core itself (R363). -/
def State.twins (s : State) (core : Nat) : List Nat :=
  match s.gangOn? core with
  | some g => if g.paired then [g.first + g.localCore core, g.firstB + g.localCore core] else [core]
  | none => [core]

/-- `SCDONE` (R302, R305, R96): the reply is stored as a remote store that arrives at the row's core, then the arrival made, then the record
freed; an orphan is only freed. A REPLY of 0 names none. It waits while an inbound buffer is full (R74). -/
def execScdone (f index : Nat) (s : State) : Host.Outcome State Fault Refusal :=
  stepWith (.get fun s =>
    match (s.func f).calls.find? fun c => c.index == index % 256 && c.posted with
    | none => .done
    | some c =>
      let free' : Act := modFunc f fun x => { x with calls := x.calls.filter fun d => d.index != index % 256 }
      .when (s.barOpen f) (
        let v := c.answer.getD (s.func f).reply
        let bs := if c.reply = 0 then [] else pbytes c.reply 8 v false
        if c.orphan then free'
        else if (s.twins c.org.core).all fun core => s.accepts core bs then .all [
          .each (s.twins c.org.core) fun core =>
            placeStore core noRow { c.org with core := core } bs (.call c.rbar) fun parts _ x =>
              if parts = 0 then finish core { c.org with core := core } (.call c.rbar) 0 x else acknowledge core { c.org with core := core } x false,
          free']
        else .all [modFunc f fun x => { x with calls := x.calls.map fun d => if d.index == index % 256 then { d with answer := some v } else d },
                   pendOp (.scdone f index)])) s

/-! ### Capabilities (R306) -/

/-- `CAPMINT` (R306): GEN of the lowest tile in MASK at the write; with MASK 0 it is 0. -/
def execCapmint (v : Nat) (s : State) : Host.Outcome State Fault Refusal :=
  stepWith (.get fun s =>
    let core := bits v 63 56
    let mask := bits v 55 52
    let gen := ((List.range 4).find? fun t => bit mask t).elim 0 (s.tileGen core)
    upd fun t => { t with capRead := s.mintCap core mask (bits v 51 48) gen (bits v 41 32) }) s

/-! ### Keys (R316) -/

def ownAt (slot : Nat) : Nat := Space.bar 0 (0x11000 + 2 * slot)

/-- `KEY_GENERATE` (R316): a slot with LIVE and DEST 0 takes a new key. -/
def execKeyGenerate (owner slot : Nat) (s : State) : Host.Outcome State Fault Refusal :=
  stepWith (.get fun s =>
    .when (slot < 1024 && bits (s.keyOwn slot) 15 14 == 0) (.all [
      putLe (ownAt slot) 2 (2 ^ 15 + owner % 1024),
      upd fun s => { s with nextKey := s.nextKey + 1, keyGen := Tab.set s.keyGen slot (s.nextKey + 1) }])) s

/-- A live slot is marked destroyed. -/
def destroyKey (slot : Nat) : Act := .get fun s => .when (bit (s.keyOwn slot) 15) (putBits (ownAt slot) 2 14 14 1)

/-- `KEY_DESTROY` (R316): not performed on an entry of a locked function (R319). -/
def execKeyDestroy (slot : Nat) (s : State) : Host.Outcome State Fault Refusal :=
  stepWith (.get fun s => .when (slot < 1024 && !s.locked (s.keyOwn slot % 1024)) (destroyKey slot)) s

/-- An access in flight was translated with a slot. -/
def State.keyBusy (s : State) (slot : Nat) : Bool :=
  s.accs.any fun a => !a.untranslated && a.key == s.keyOf slot && !isHost a.pa && a.state != .mesh

/-- `KEY_ERASE` (R316): once no access in flight remains, LIVE and DEST fall and the key is gone. -/
def execKeyErase (slot : Nat) (s : State) : Host.Outcome State Fault Refusal :=
  stepWith (.get fun s =>
    .when (slot < 1024 && bit (s.keyOwn slot) 14 && !s.keyBusy slot) (.all [
      putBits (ownAt slot) 2 15 14 0, upd fun s => { s with keyGen := Tab.erase s.keyGen slot }])) s

/-! ### Partitions (R85, R306) -/

/-- PARTTAB entry of a node. -/
def State.partEntry (s : State) (n : Nat) : Nat := s.bar 0 (0x11800 + 2 * n) 2

/-- The cores that a node covers: first, number. -/
def nodeCores (n : Nat) : Nat × Nat :=
  let d := Nat.log2 n
  ((n - 2 ^ d) * 2 ^ (8 - d), 2 ^ (8 - d))

/-- A gang, live or in binding, has a core under a node. -/
def State.nodeBusy (s : State) (n : Nat) : Bool :=
  s.gangs.any fun g => g.allCores.any fun c => (nodeCores n).1 ≤ c && c < (nodeCores n).1 + (nodeCores n).2

/-- `PARTTAB_WRITE` (R85, R306, R319). -/
def execParttabWrite (node v : Nat) (s : State) : Host.Outcome State Fault Refusal :=
  stepWith (.get fun s =>
    let old := s.partEntry node
    let new := bits v 15 15 * 2 ^ 15 + v % 1024
    let kin (m : Nat) : Bool := m != node && ((List.range 9).any (fun k => node / 2 ^ k == m) || (List.range 9).any fun k => m / 2 ^ k == node)
    let clash := bit new 15 && (List.range 512).any fun m => 1 ≤ m && kin m && bit (s.partEntry m) 15
    let keeps := bit new 15 == bit old 15 && new % 1024 == old % 1024
    .when (1 ≤ node && node < 512 && !clash && (!(bit old 15 && s.nodeBusy node) || keeps) && !(bit old 15 && s.locked (old % 1024)))
      (putLe (Space.bar 0 (0x11800 + 2 * node)) 2 new)) s

/-! ### Repairs and disabled cores (R390, R391) -/

/-- `REPAIR_COMMIT` (R390): the pending candidates enter the repair record. -/
def execRepairCommit (s : State) : Host.Outcome State Fault Refusal :=
  stepWith (upd fun s => { s with repairs := s.repairs ++ s.candidates, candidates := [] }) s

/-- `REPAIR_DISCARD` (R390). -/
def execRepairDiscard (s : State) : Host.Outcome State Fault Refusal :=
  stepWith (upd fun s => { s with candidates := [] }) s

/-- A committed repair of a core takes effect at the next module reset (R30). -/
def State.coreRepaired (s : State) (core : Nat) : Bool :=
  s.repairs.any fun r => r.unit == 1 && r.index == core && r.detail == 2 && s.applied.count r < s.repairs.count r

/-- What a function reads of which physical part backs a logical one (R31): the physical function, that a part of a unit, by index and detail, is
its own, or is the n-th spare of its kind; a virtual function nothing. A fabric port's spare stands at PORTSTAT entry 72 + n. The spec gives no
register of it (log 139). -/
def State.backing (s : State) (f unit index detail part : Nat) : Option Nat :=
  if f ≠ 0 then none else
  let kind := s.applied.filter fun r => r.unit == unit && r.detail == detail
    && (if unit = 10 then true else if unit = 1 ∧ detail = 2 then clusterOf r.index == clusterOf index else r.index == index)
  (kind.zipIdx.filter fun r => r.1.index == index && r.1.part == part).getLast?.map (·.2)

/-- A spare core is left in a cluster: one each (R30), not taken by a committed repair or a candidate. -/
def State.spareCore (s : State) (cluster : Nat) : Bool :=
  !(s.repairs ++ s.candidates).any fun r => r.unit == 1 && clusterOf r.index == cluster && r.detail == 2

/-- `CORE_DISABLE` (R390, R391): every gang with a row on the core is stopped, one still in binding placed anew (log 110); the core is a repair candidate while a spare is left
in its cluster. -/
def execCoreDisable (core : Nat) (s : State) : Host.Outcome State Fault Refusal :=
  stepWith (.get fun s =>
    .when (core < 256 && !(s.coreSt core).disabled) (.all [
      modCore core fun c => { c with disabled := true },
      putBits (Space.bar 0 (0x10080 + core / 8)) 1 (core % 8) (core % 8) 1,
      .each (s.gangs.filter fun g => g.allCores.contains core) fun g => if g.dispatched then stopGang g 0x13 core else unbind g,
      .when (s.spareCore (clusterOf core)) (addCandidate 1 core 2 core)])) s

/-! ### Module reset (R325, R401) -/

/-- The remaps in effect after a module reset (R30): every committed repair, and the HBM bank rows that spares back. -/
def State.remaps (s : State) : List Repair := s.repairs ++ s.applied.filter fun r => r.unit == 7 && r.detail == rowDetail

/-- What a module reset leaves of the old state beside State.reset: HBM, LPDDR and host memory with their keys' tags and marks, the
repair record, disabled cores without a repair that takes effect, spare rows taken (R30), the outside world and the model's counters. -/
def State.afterReset (s : State) : State :=
  let phys (k : Nat) : Bool := 2 ^ 52 ≤ k
  let off := s.cores.filter fun c => c.2.disabled && !s.coreRepaired c.1
  { State.reset with
    physKey := s.physKey, poison := s.poison.filter phys, powerCycle := s.powerCycle + 1
    cores := off.map fun c => (c.1, { CoreSt.reset with disabled := true }), nextKey := s.nextKey
    repairs := s.repairs, applied := s.remaps
    sent := s.sent, responses := s.responses, inputs := s.inputs, freeCtr := s.freeCtr, pickCtr := s.pickCtr }

/-- What the removal of module power leaves (R27): the repair record of the flash and the fuses, which no bank row remapped in service is in, with the outside world and the model's
counters. No instruction of the opcode table removes it. -/
def State.afterPowerLoss (s : State) : State :=
  { State.reset with
    powerCycle := s.powerCycle + 1, repairs := s.repairs, applied := s.repairs
    sent := s.sent, responses := s.responses, inputs := s.inputs, freeCtr := s.freeCtr, pickCtr := s.pickCtr }

/-- The LPDDR node's staging area: its last 256 MiB (R325). -/
def stagingAt : Nat := Space.phys (2 ^ 40 + 2 ^ 36 - 2 ^ 28)
def State.staging (s : State) : List Host.Cell := s.mem.filter fun c => stagingAt ≤ c.1 && c.1 < stagingAt + 2 ^ 28

/-- Step 1 of start-up (R325): the staged bundle is taken, or the ROM reads the flash's into the LPDDR node, at a place that is open (log 101). -/
def loadBundle (staged : Option (List Host.Cell)) : Act :=
  let a := bundleKey
  let bs := Config.bundle.take (2 ^ 33)
  match staged with
  | some cells => upd fun s => { s with bundle := some cells }
  | none => .all [put a bs, unpoison a bs.length, upd fun s => { s with
      bundle := none, physKey := s.physKey.filter fun u => !(a < u.1 + 64 && u.1 < a + bs.length) }]

/-- BOOTST after start-up (R401). -/
def bootst (stage fail units : Nat) : Act := putLe (Space.bar 0 0x10054) 4 (stage * 2 ^ 24 + fail * 2 ^ 16 + units)

/-- A boot failure is recorded. -/
def bootRecord (index detail : Nat) : Act := errorRecord 12 14 false true 0 index 0 detail

/-- Hold responders in reset. -/
def holdDies (ds : List Nat) : Act :=
  .each ds fun d => upd fun s => { s with spdm := Tab.set s.spdm d { (Tab.find? s.spdm d).getD Spdm.reset with held := true } }

/-- What fails in a start-up, in the codes of R401: of a staged bundle and of the flash's 1 or 2, 0 none; the responders whose firmware fails, with
code 3 or 4; stacks; LPDDR packages. -/
structure BootFailure where
  staged : Nat
  flash : Nat
  dies : List Nat
  code : Nat
  hbm : List Nat
  packages : List Nat
  packageCode : Nat
  deriving DecidableEq, Repr

/-- The failures of a start-up as a free value gives them (log 13). -/
def BootFailure.of (v : Nat) : BootFailure :=
  let some' (n w : Nat) : List Nat := (List.range n).filter (bit w)
  { staged := v % 3, flash := v / 3 % 3, dies := (some' 12 (v / 9)).map (· + 1), code := 3 + v / 9 / 2 ^ 12 % 2
    hbm := some' 8 (v / 9 / 2 ^ 13), packages := some' 4 (v / 9 / 2 ^ 21), packageCode := 1 + v / 9 / 2 ^ 25 % 5 }

/-- FAIL of a start-up that completes: the first failure that it met; where only an LPDDR package fails, the code is open (log 13). -/
def BootFailure.fail (b : BootFailure) : Nat :=
  if b.staged ≠ 0 then b.staged else if !b.dies.isEmpty then b.code else if !b.hbm.isEmpty then 5
  else if !b.packages.isEmpty then b.packageCode else 0

/-- UNITS: the dies, the base dies' stacks among them, the stacks and the packages that failed. -/
def BootFailure.units (b : BootFailure) : Nat :=
  ((List.range 16).filter fun i => b.dies.contains (i + 1) || (4 ≤ i && b.hbm.contains (i - 4)) || (12 ≤ i && b.packages.contains (i - 12))).map
    (2 ^ ·) |>.sum

/-- Stacks that fail training are quarantined with no copy (R401): their regions take the slots in ascending order, as far as these go (log 92). -/
def bootQuarantine (ts : List Nat) : Act :=
  .all [.each ts fun t => putBits (Space.bar 0 0x10070) 8 t t 1,
        upd fun s =>
          let regions := (ts.flatMap fun t => (List.range 262144).map fun m => (t, m)).take rehomeSlots
          { s with rehome := regions.zipIdx.map fun r => (r.1.1, r.1.2, r.2) }]

/-- The end of a start-up (R401): a staged bundle that fails is discarded for the flash's; a flash bundle that fails leaves ROM recovery; each failure
is recorded. -/
def bootEnd (staging : Option (List Host.Cell)) (b : BootFailure) : Act :=
  let b := if staging.isNone then { b with staged := 0 } else b
  .all [
    .when (b.staged != 0) (bootRecord 0 b.staged),
    if staging.isSome && b.staged == 0 then loadBundle staging else .when (b.flash == 0) (loadBundle none),
    if !(staging.isSome && b.staged == 0) && b.flash != 0 then
      .all [bootst 0 b.flash 0, holdDies ((List.range 12).map (· + 1)), bootRecord 0 b.flash]
    else .all [
      bootst 6 b.fail b.units, holdDies b.dies, .when (!b.hbm.isEmpty) (bootQuarantine b.hbm),
      .each b.dies fun d => bootRecord d b.code, .each b.hbm fun t => bootRecord t 5, .each b.packages fun p => bootRecord p b.packageCode]]

/-- `MODULE_RESET` (R325, R401): start-up as one step. Which parts of it fail, if any, is open (a free value). -/
def execModuleReset (s : State) : Host.Outcome State Fault Refusal :=
  stepWith (.get fun s => .all [
    wipe 0 (2 ^ 52), put (Space.bar 0 0x10048) [0x28, 0x0A],
    .each (List.range 8) fun t => putLe (hbmstat t 8) 2 (s.le (hbmstat t 8) 2),
    .each (s.afterReset.cores) fun c => putBits (Space.bar 0 (0x10080 + c.1 / 8)) 1 (c.1 % 8) (c.1 % 8) 1,
    upd fun t => t.afterReset,
    free fun v => bootEnd (if s.staged then some s.staging else none) (BootFailure.of v)]) s

/-- A write to the staging area through BAR2, which maps it in ROM recovery (R401). -/
def stageWrite (off : Nat) (bs : List Byte) : Act :=
  .get fun s => .when (s.recovery && off + bs.length ≤ 2 ^ 28) (put (stagingAt + off) bs)

/-- `BOOTCTL` (R325). -/
def execBootctl (v : Nat) (s : State) : Host.Outcome State Fault Refusal :=
  stepWith (upd fun s => if bits v 31 16 = 0xB007 ∧ bit v 0 then { s with staged := true } else s) s

/-! ### Clock and link (R304, R326) -/

/-- The power lies above the cap, and the clock can be lowered. -/
def State.overCap (s : State) : Bool := s.bar 0 0x10048 2 < s.power s.clock && 900 < s.clock

/-- `ARITHMETIC_CLOCK_STEP` (R326): 75 MHz down to 900 MHz while the power lies above the cap, or up to 2,250 MHz where it would not
(log 87). -/
def execArithmeticClockStep (up : Bool) (s : State) : Host.Outcome State Fault Refusal :=
  stepWith (.get fun s =>
    if up then .when (s.power (min 2250 (s.clock + 75)) ≤ s.bar 0 0x10048 2) (upd fun s => { s with clock := min 2250 (s.clock + 75) })
    else .when s.overCap (upd fun s => { s with clock := max 900 (s.clock - 75) })) s

/-- `HOST_LINK_TRAINING` (R304): the full width and rate, or a degraded one. -/
def execHostLinkTraining (width rate : Nat) (s : State) : Host.Outcome State Fault Refusal :=
  stepWith (.when ([16, 8, 4, 2, 1].contains width && 1 ≤ rate && rate ≤ 64)
    (upd fun s => { s with linkWidth := width, linkRate := rate })) s

end Sys2Proof.Machine
end

