-- ==== Sys2Proof/Machine/Trust.lean ====
section
/-!
DEFINITION. SPDM, TDISP and IDE (R317 to R320, R399, R400).
-/

namespace Sys2Proof.Machine

/-- The connection of a responder: 0 Mainstay, 1 and 2 the compute dies, 3 and 4 the operand dies, 5 to 12 the base dies. -/
def State.responder (s : State) (d : Nat) : Spdm := (Tab.find? s.spdm d).getD Spdm.reset

def modSpdm (d : Nat) (f : Spdm → Spdm) : Act := upd fun s => { s with spdm := Tab.set s.spdm d (f (s.responder d)) }

/-- A response leaves by a mailbox. -/
def respond (d : Nat) (r : Response) : Act := upd fun s => { s with responses := (d, r) :: s.responses }

/-! ### The end of a TDI's work (R319, R399) -/

/-- A gang ends at once: its rows, commands, accesses and packets are discarded, its tiles freed; its record counts in DONE. -/
def killGang (g : Gang) : Act :=
  .all [
    stopRows g.id,
    .get fun s => .each (s.slots.filter fun x => g.allCores.contains x.core) fun x => discard x.core x.rid x.inst,
    upd fun s => { s with
      slots := s.slots.filter fun x => !g.allCores.contains x.core, accs := s.accs.filter fun a => !g.allCores.contains a.core
      mesh := s.mesh.filter fun m => m.org.gang != g.id },
    .each g.allCores fun c => modCore c fun x => { x with halyard := [] },
    .get fun s => .each s.cores fun c => .each (c.2.opa.filter fun e => e.org.gang == g.id) fun e => dropOpa c.1 e,
    endGang g, upd fun s => { s with settled := (g.func, g.qid, g.index) :: s.settled },
    owe g.func g.qid 1 0, freeCheck g.func g.qid]

/-- Everything of a function stops: its gangs end, those of a saved context too, bindings are undone, pinned tiles are cleared, key slots destroyed, and its
page requests and Capstan's accesses for it are dropped. -/
def endInterface (f : Nat) : Act :=
  .all [
    .get fun s => .each s.binding fun b => match s.gang? b.gang with
      | some g => .when (g.func == f) (unbind g)
      | none => .done,
    .get fun s => .each (s.gangs.filter fun g => g.func == f) killGang,
    .get fun s => .each s.cores fun c => .each (c.2.opa.filter fun e => e.org.func == f) fun e => dropOpa c.1 e,
    .get fun s => .each (List.range 256) fun c => .each ((List.range 4).filter fun t => s.tileState c t == 2 && s.tileTenant c t == f) fun t =>
      freeThenBind c t,
    .get fun s => .each ((List.range 1024).filter fun k => bit (s.keyOwn k) 15 && s.keyOwn k % 1024 == f) destroyKey,
    .get fun s => .each ((s.contexts.filter fun c => c.func == f).flatMap (·.gangs)) fun g => .all [
      upd fun s => { s with settled := (g.func, g.qid, g.index) :: s.settled }, owe g.func g.qid 1 0],
    upd fun s => { s with accs := s.accs.filter (fun a => a.func != f), contexts := s.contexts.filter fun c => c.func != f },
    modFunc f fun x => { x with tags := [], calls := (x.calls.filter (·.posted)).map fun c => { c with orphan := true } }]

/-- A TDI enters ERROR (R399). -/
def tdiFails (f : Nat) : Act :=
  .get fun s => .when ((s.func f).tdi == 1 || (s.func f).tdi == 2) (.all [
    modFunc f fun x => { x with tdi := 3 }, endInterface f, errorRecord 12 12 false false f f 0 0])

/-- `TDI_ERROR` (R399). -/
def execTdiError (f : Nat) (s : State) : Host.Outcome State Fault Refusal := stepWith (tdiFails f) s

/-! ### SPDM (R317, R318, R400) -/

/-- The session on an instance ends (R400); on instance 0 the TDIs locked in it enter ERROR (R399). -/
def dropSession (d : Nat) : Act :=
  .get fun s => .when ((s.responder d).session || (s.responder d).exchanged) (.all [
    modSpdm d fun c => { c with session := false, exchanged := false },
    errorRecord 12 13 false true 0 d 0 0,
    .when (d == 0) (.each (s.funcs.filter fun f => f.2.lockSession.isSome) fun f => tdiFails f.1)])

/-- A message of a session has come: its heartbeat periods are counted anew (R400). -/
def heard (d : Nat) : Act := .get fun s => .when (s.responder d).session (modSpdm d fun x => { x with last := s.time })

/-- A request that reaches its responder; one to a die held in reset, or that the connection is not ready for, is answered with an
error. -/
def onSpdm (d : Nat) (ready : Spdm → Bool) (k : State → Spdm → Act) : Act :=
  .get fun s =>
    let c := s.responder d
    .when (d < 13) (.all [
      if c.held then respond d .unspecified else if ready c then k s c else respond d .unexpected,
      heard d])

/-- A message in a session whose tag fails ends the session; its contents have no effect (R400). -/
def ifTag (d : Nat) (tagOk : Bool) (k : Act) : Act := if tagOk then k else dropSession d

/-- A message of any kind in a session whose tag fails has come, an END_SESSION, a GET_MEASUREMENTS, a TDISP message or an IDE_KM among them: it ends the
session and has no other effect (R400; log 144). -/
def forgedMessage (d : Nat) : Act := .when (d < 13) (ifTag d false .done)

/-- Data of a response that rests on keys or certificates (log 10). -/
def spdmWords (d req : Nat) (k : List Nat → Act) : Act := free fun v => k [Config.spdmBytes d req v]

/-- `GET_VERSION` (R317): the connection starts anew. -/
def execGetVersion (d : Nat) (s : State) : Host.Outcome State Fault Refusal :=
  stepWith (onSpdm d (fun _ => true) fun _ _ => .all [
    modSpdm d fun c => { c with version := true, negotiated := false }, respond d (.words [0x13])]) s

/-- `GET_CAPABILITIES` (R317): the messages and features that R317 lists. -/
def execGetCapabilities (d : Nat) (s : State) : Host.Outcome State Fault Refusal :=
  stepWith (onSpdm d (·.version) fun _ _ => spdmWords d 0xE1 fun ws => respond d (.words ws)) s

/-- `NEGOTIATE_ALGORITHMS` (R317): bit 0 of the offer stands for RSASSA-3072 with SHA-256, bit 1 for DHE over P-384 and bit 2 for
AES-256-GCM; no others are supported. -/
def execNegotiateAlgorithms (d offer : Nat) (s : State) : Host.Outcome State Fault Refusal :=
  stepWith (onSpdm d (·.version) fun _ _ => .all [
    modSpdm d fun c => { c with negotiated := offer % 8 == 7 }, respond d (.words [offer % 8])]) s

/-- `GET_DIGESTS` (R317): of slot 0, the die's identity chain. -/
def execGetDigests (d : Nat) (s : State) : Host.Outcome State Fault Refusal :=
  stepWith (onSpdm d (·.negotiated) fun _ _ => spdmWords d 0x81 fun ws => respond d (.words ws)) s

/-- `GET_CERTIFICATE` (R317): a part of the chain of slot 0; no other slot holds one. -/
def execGetCertificate (d slot offset len : Nat) (s : State) : Host.Outcome State Fault Refusal :=
  stepWith (onSpdm d (fun c => c.negotiated && slot == 0) fun _ _ =>
    respond d (.words [offset, len, Config.spdmBytes d 0x82 (offset * 2 ^ 32 + len)])) s

/-- `CHALLENGE` (R317): signed by the named die's own key. -/
def execChallenge (d nonce : Nat) (s : State) : Host.Outcome State Fault Refusal :=
  stepWith (onSpdm d (·.negotiated) fun _ _ => respond d (.words [nonce, Config.spdmBytes d 0x83 nonce])) s

/-- Words that measurement 5 of Mainstay covers: FUNCTAB, PARTTAB, KEYOWN and EVTAB entries of each locked TDI (R318). -/
def State.lockedWords (s : State) : List Nat :=
  (s.funcs.filter fun f => s.locked f.1).flatMap fun f =>
    let mine (e : Nat) : Bool := e % 1024 == f.1 && bit e 15
    (List.range 4).map (fun w => s.regRead 0 (0x14000 + 32 * f.1 + 8 * w) 8)
      ++ ((List.range 512).filter fun n => mine (s.partEntry n)).flatMap (fun n => [n, s.partEntry n])
      ++ ((List.range 1024).filter fun k => mine (s.keyOwn k)).flatMap (fun k => [k, s.keyOwn k])
      ++ ((List.range 1024).filter fun l => mine (s.bar 0 (0x12000 + 2 * l) 2)).flatMap fun l => [l, s.bar 0 (0x12000 + 2 * l) 2]

/-- The boot bundle in use: the flash's, or the bytes of a staged one (R325). -/
def State.bundleWords (s : State) : List Nat :=
  match s.bundle with
  | none => Config.bundle.map (·.toNat)
  | some cells => 0x100 :: cells.flatMap fun c => [c.1, c.2.toNat]

/-- What a measurement index covers beside a die's own ROM and fuses (R318): the boot bundle in the firmware, index 2, and in the manifest, index
3 of Mainstay; the repair record in index 3 of a die; the locked entries in index 5 of Mainstay. -/
def State.measured (s : State) (d index : Nat) : List Nat :=
  if d = 0 ∧ index = 5 then s.lockedWords
  else if d ≠ 0 ∧ index = 3 then s.repairs.flatMap fun r => [r.unit, r.index, r.detail, r.part]
  else if index = 2 ∨ index = 3 then s.bundleWords
  else []

/-- `GET_MEASUREMENTS` (R317, R318): the digest of an index, or of all, signed by the die. -/
def execGetMeasurements (d index nonce : Nat) (s : State) : Host.Outcome State Fault Refusal :=
  stepWith (onSpdm d (·.negotiated) fun s _ =>
    let all := if d = 0 then [1, 2, 3, 4, 5] else [1, 2, 3, 4]
    let want := if index = 0xFF then all else all.filter (· == index)
    respond d (.words ((want.flatMap fun i => [i, Config.measure d i (s.measured d i)]) ++ [nonce, Config.spdmBytes d 0xE0 nonce]))) s

/-- `KEY_EXCHANGE` (R317). -/
def execKeyExchange (d : Nat) (s : State) : Host.Outcome State Fault Refusal :=
  stepWith (onSpdm d (fun c => c.negotiated && !c.session) fun _ _ => .all [
    modSpdm d fun c => { c with exchanged := true }, spdmWords d 0xE4 fun ws => respond d (.words ws)]) s

/-- `FINISH` (R317): the session begins; a message whose tag fails ends it (R400). -/
def execFinish (d : Nat) (tagOk : Bool) (s : State) : Host.Outcome State Fault Refusal :=
  stepWith (onSpdm d (·.exchanged) fun _ _ =>
    ifTag d tagOk (.all [modSpdm d fun c => { c with session := true, exchanged := false }, respond d .done])) s

/-- `HEARTBEAT` (R317, R400). -/
def execHeartbeat (d : Nat) (tagOk : Bool) (s : State) : Host.Outcome State Fault Refusal :=
  stepWith (onSpdm d (·.session) fun _ _ => ifTag d tagOk (respond d .done)) s

/-- `KEY_UPDATE` (R317, R400). -/
def execKeyUpdate (d : Nat) (ok : Bool) (s : State) : Host.Outcome State Fault Refusal :=
  stepWith (onSpdm d (·.session) fun _ _ => ifTag d ok (respond d .done)) s

/-- `END_SESSION` (R400). -/
def execEndSession (d : Nat) (s : State) : Host.Outcome State Fault Refusal :=
  stepWith (onSpdm d (·.session) fun _ _ => .all [respond d .done, dropSession d]) s

/-- Three heartbeat periods have passed in a session without a message (R400). -/
def State.silent (s : State) (d : Nat) : Bool := (s.responder d).session && (s.responder d).last + 3 * Config.heartbeatPeriod ≤ s.time

/-- A session that has been silent for three heartbeat periods ends. -/
def sessionExpires (d : Nat) : Act := .get fun s => .when (s.silent d) (dropSession d)

/-- `HEARTBEAT_TIMEOUT` (R400). -/
def execHeartbeatTimeout (d : Nat) (s : State) : Host.Outcome State Fault Refusal := stepWith (sessionExpires d) s

/-- A request that Mainstay relays to a die without a PCIe path, and that the die leaves unanswered, waits from now on; one to a die held in
reset is answered at once (R400, R401). -/
def relayRequest (d : Nat) : Act :=
  .get fun s => .when (1 ≤ d && d < 13) (if (s.responder d).held then respond d .unspecified
    else modSpdm d fun c => { c with relayed := some (c.relayed.getD s.time) })

/-- A relayed request has waited for 100 ms (R400). -/
def State.relayLate (s : State) (d : Nat) : Bool := (s.responder d).relayed.any fun t => t + 100000000 ≤ s.time

/-- Mainstay answers for a die without a PCIe path that has not answered. -/
def relayExpires (d : Nat) : Act :=
  .get fun s => .when (1 ≤ d && d < 13 && s.relayLate d) (.all [
    respond d .unspecified, modSpdm d fun c => { c with relayed := none }])

/-- `RELAY_TIMEOUT` (R400). -/
def execRelayTimeout (d : Nat) (s : State) : Host.Outcome State Fault Refusal := stepWith (relayExpires d) s

/-! ### TDISP (R319, R399) -/

/-- A message in the session on instance 0. -/
def inSession (k : State → Act) : Act :=
  .get fun s => .when ((s.responder 0).session && !(s.responder 0).held) (.all [
    k s, heard 0])

/-- A TDISP message for a virtual function, in the session on instance 0; one that its state does not allow is answered with
INVALID_INTERFACE_STATE. -/
def onTdisp (f : Nat) (states : List Nat) (k : State → Act) : Act :=
  .when (1 ≤ f && f ≤ 512) (inSession fun s => if states.contains (s.func f).tdi then k s else respond 0 .invalidState)

/-- `LOCK_INTERFACE` (R319). -/
def execLockInterface (f : Nat) (s : State) : Host.Outcome State Fault Refusal :=
  stepWith (onTdisp f [0] fun _ => .all [modFunc f fun x => { x with tdi := 1, lockSession := some 0 }, respond 0 .done]) s

/-- `START_INTERFACE` (R319). -/
def execStartInterface (f : Nat) (s : State) : Host.Outcome State Fault Refusal :=
  stepWith (onTdisp f [1] fun _ => .all [modFunc f fun x => { x with tdi := 2 }, respond 0 .done]) s

/-- `STOP_INTERFACE` (R319, R399). -/
def execStopInterface (f : Nat) (s : State) : Host.Outcome State Fault Refusal :=
  stepWith (onTdisp f [1, 2, 3] fun _ => .all [
    endInterface f, modFunc f fun x => { x with tdi := 0, lockSession := none }, respond 0 .done]) s

/-- The interface report of a function (R319): its page, partitions, key slots, event lines, SUPV and TROOT. -/
def State.report (s : State) (f : Nat) : List Nat :=
  let mine (e : Nat) : Bool := e % 1024 == f && bit e 15
  [f] ++ (List.range 512).filter (fun n => mine (s.partEntry n)) ++ (List.range 1024).filter (fun k => mine (s.keyOwn k))
    ++ (List.range 1024).filter (fun l => mine (s.bar 0 (0x12000 + 2 * l) 2))
    ++ [s.funcWord f 1 % 65536, bits (s.funcWord f 0) 51 12]

/-- `GET_DEVICE_INTERFACE_REPORT` (R319): performed for a locked or running interface. -/
def execGetDeviceInterfaceReport (f : Nat) (s : State) : Host.Outcome State Fault Refusal :=
  stepWith (onTdisp f [1, 2] fun s => respond 0 (.words (s.report f))) s

/-- `GET_DEVICE_INTERFACE_STATE` (R319, R399). -/
def execGetDeviceInterfaceState (f : Nat) (s : State) : Host.Outcome State Fault Refusal :=
  stepWith (onTdisp f [0, 1, 2, 3] fun s => respond 0 (.words [(s.func f).tdi])) s

/-- The key under which IDE carries an access to a function's BAR0, if any (R320): link IDE, as stream 16, covers all traffic; a selective stream the
ranges that the report of a locked function names, which are its register page. Which stream serves which function is open: the lowest that has a
key (log 10). -/
def State.ideKey (s : State) (f off : Nat) : Option Nat :=
  let link := Tab.find? s.ide 16
  if s.locked f ∧ off < 0x10000 then ((s.ide.find? fun k => k.1 < 16).map (·.2)).orElse fun _ => link else link

/-- `IDE_KM` (R320): the keys of selective streams 0 to 15, and 16 for link IDE, in the session on instance 0. -/
def execIdeKm (stream key : Nat) (s : State) : Host.Outcome State Fault Refusal :=
  stepWith (.when (stream ≤ 16) (inSession fun _ => upd fun s => { s with ide := Tab.set s.ide stream key })) s

end Sys2Proof.Machine
end

