-- ==== Sys2Proof/Machine/Dispatch.lean ====
section
/-!
DEFINITION. The one match that sends each instruction and each step to its meaning.
-/

namespace Sys2Proof.Machine

/-- What an instruction or step does. -/
def exec (i : Instr) (s : State) : Host.Outcome State Fault Refusal :=
  match i with
  | .br off p => Sys2Proof.Machine.execBr off p s
  | .brx p => Sys2Proof.Machine.execBrx p s
  | .call off p => Sys2Proof.Machine.execCall off p s
  | .loop off p => Sys2Proof.Machine.execLoop off p s
  | .endl p => Sys2Proof.Machine.execEndl p s
  | .brkl off p => Sys2Proof.Machine.execBrkl off p s
  | .waitb off p => Sys2Proof.Machine.execWaitb off p s
  | .waite off p => Sys2Proof.Machine.execWaite off p s
  | .waitqr off p => Sys2Proof.Machine.execWaitqr off p s
  | .waitqd off p => Sys2Proof.Machine.execWaitqd off p s
  | .yield off p => Sys2Proof.Machine.execYield off p s
  | .halt off p => Sys2Proof.Machine.execHalt off p s
  | .trap code p => Sys2Proof.Machine.execTrap code p s
  | .efence off p => Sys2Proof.Machine.execEfence off p s
  | .splice p => Sys2Proof.Machine.execSplice p s
  | .forkr off p => Sys2Proof.Machine.execForkr off p s
  | .movi imm t0 => Sys2Proof.Machine.execMovi imm t0 s
  | .movih imm t0 => Sys2Proof.Machine.execMovih imm t0 s
  | .mov t1 t0 p t => Sys2Proof.Machine.execMov t1 t0 p t s
  | .mov_F16 t0 st => Sys2Proof.Machine.execMov_F16 t0 st s
  | .teq t1 t0 p t => Sys2Proof.Machine.execTeq t1 t0 p t s
  | .teq_F16 t0 st => Sys2Proof.Machine.execTeq_F16 t0 st s
  | .tne t1 t0 p t => Sys2Proof.Machine.execTne t1 t0 p t s
  | .tlt t1 t0 p t => Sys2Proof.Machine.execTlt t1 t0 p t s
  | .tlt_F16 t0 st => Sys2Proof.Machine.execTlt_F16 t0 st s
  | .tle t1 t0 p t => Sys2Proof.Machine.execTle t1 t0 p t s
  | .sel t1 t0 p t => Sys2Proof.Machine.execSel t1 t0 p t s
  | .sel_F16 t0 st => Sys2Proof.Machine.execSel_F16 t0 st s
  | .pand t1 t0 p => Sys2Proof.Machine.execPand t1 t0 p s
  | .por t1 t0 p => Sys2Proof.Machine.execPor t1 t0 p s
  | .pnot t1 t0 p => Sys2Proof.Machine.execPnot t1 t0 p s
  | .anyl t1 t0 p => Sys2Proof.Machine.execAnyl t1 t0 p s
  | .alll t1 t0 p => Sys2Proof.Machine.execAlll t1 t0 p s
  | .adds x t1 t0 p t => Sys2Proof.Machine.execAdds x t1 t0 p t s
  | .subs x t1 t0 p t => Sys2Proof.Machine.execSubs x t1 t0 p t s
  | .muls x t1 t0 p t => Sys2Proof.Machine.execMuls x t1 t0 p t s
  | .mulhs t1 t0 p t => Sys2Proof.Machine.execMulhs t1 t0 p t s
  | .divs x t1 t0 p t => Sys2Proof.Machine.execDivs x t1 t0 p t s
  | .rems t1 t0 p t => Sys2Proof.Machine.execRems t1 t0 p t s
  | .ands t1 t0 p t => Sys2Proof.Machine.execAnds t1 t0 p t s
  | .ors t1 t0 p t => Sys2Proof.Machine.execOrs t1 t0 p t s
  | .xors t1 t0 p t => Sys2Proof.Machine.execXors t1 t0 p t s
  | .shls x t1 t0 p t => Sys2Proof.Machine.execShls x t1 t0 p t s
  | .shrs t1 t0 p t => Sys2Proof.Machine.execShrs t1 t0 p t s
  | .addis imm t0 p t => Sys2Proof.Machine.execAddis imm t0 p t s
  | .andis imm t0 p t => Sys2Proof.Machine.execAndis imm t0 p t s
  | .shis imm t0 p t => Sys2Proof.Machine.execShis imm t0 p t s
  | .clzs t1 t0 p => Sys2Proof.Machine.execClzs t1 t0 p s
  | .ctzs t1 t0 p => Sys2Proof.Machine.execCtzs t1 t0 p s
  | .popcs t1 t0 p => Sys2Proof.Machine.execPopcs t1 t0 p s
  | .mins t1 t0 p u => Sys2Proof.Machine.execMins t1 t0 p u s
  | .maxs t1 t0 p u => Sys2Proof.Machine.execMaxs t1 t0 p u s
  | .vadd x t1 t0 p t => Sys2Proof.Machine.execVadd x t1 t0 p t s
  | .vadd_F16 t0 st => Sys2Proof.Machine.execVadd_F16 t0 st s
  | .vsub x t1 t0 p t => Sys2Proof.Machine.execVsub x t1 t0 p t s
  | .vsub_F16 t0 st => Sys2Proof.Machine.execVsub_F16 t0 st s
  | .vmul x t1 t0 p t => Sys2Proof.Machine.execVmul x t1 t0 p t s
  | .vmul_F16 t0 st => Sys2Proof.Machine.execVmul_F16 t0 st s
  | .vmulh t1 t0 p t => Sys2Proof.Machine.execVmulh t1 t0 p t s
  | .vfma x t1 t0 p t => Sys2Proof.Machine.execVfma x t1 t0 p t s
  | .vfma_F16 t0 st => Sys2Proof.Machine.execVfma_F16 t0 st s
  | .vmin t1 t0 p t => Sys2Proof.Machine.execVmin t1 t0 p t s
  | .vmin_F16 t0 st => Sys2Proof.Machine.execVmin_F16 t0 st s
  | .vmax t1 t0 p t => Sys2Proof.Machine.execVmax t1 t0 p t s
  | .vmax_F16 t0 st => Sys2Proof.Machine.execVmax_F16 t0 st s
  | .vand t1 t0 p t => Sys2Proof.Machine.execVand t1 t0 p t s
  | .vand_F16 t0 st => Sys2Proof.Machine.execVand_F16 t0 st s
  | .vor t1 t0 p t => Sys2Proof.Machine.execVor t1 t0 p t s
  | .vor_F16 t0 st => Sys2Proof.Machine.execVor_F16 t0 st s
  | .vxor t1 t0 p t => Sys2Proof.Machine.execVxor t1 t0 p t s
  | .vxor_F16 t0 st => Sys2Proof.Machine.execVxor_F16 t0 st s
  | .vshl x t1 t0 p t => Sys2Proof.Machine.execVshl x t1 t0 p t s
  | .vshl_F16 t0 st => Sys2Proof.Machine.execVshl_F16 t0 st s
  | .vshr t1 t0 p t => Sys2Proof.Machine.execVshr t1 t0 p t s
  | .vshr_F16 t0 st => Sys2Proof.Machine.execVshr_F16 t0 st s
  | .vaddi imm t0 p t => Sys2Proof.Machine.execVaddi imm t0 p t s
  | .vdot x t1 t0 p t => Sys2Proof.Machine.execVdot x t1 t0 p t s
  | .vdot_F16 t0 st => Sys2Proof.Machine.execVdot_F16 t0 st s
  | .vdiv x t1 t0 p => Sys2Proof.Machine.execVdiv x t1 t0 p s
  | .vsqrt x t1 t0 p => Sys2Proof.Machine.execVsqrt x t1 t0 p s
  | .vrcp t1 t0 p => Sys2Proof.Machine.execVrcp t1 t0 p s
  | .vrsq t1 t0 p => Sys2Proof.Machine.execVrsq t1 t0 p s
  | .vexp2 t1 t0 p => Sys2Proof.Machine.execVexp2 t1 t0 p s
  | .vlog2 t1 t0 p => Sys2Proof.Machine.execVlog2 t1 t0 p s
  | .vcvt mode src t0 p t => Sys2Proof.Machine.execVcvt mode src t0 p t s
  | .vcvts x t1 t0 p t => Sys2Proof.Machine.execVcvts x t1 t0 p t s
  | .vpack x t1 t0 p t => Sys2Proof.Machine.execVpack x t1 t0 p t s
  | .vunpk t1 t0 p t => Sys2Proof.Machine.execVunpk t1 t0 p t s
  | .vrnd imm t0 p t => Sys2Proof.Machine.execVrnd imm t0 p t s
  | .vrand t1 t0 p t => Sys2Proof.Machine.execVrand t1 t0 p t s
  | .vbce imm t0 p t => Sys2Proof.Machine.execVbce imm t0 p t s
  | .vshuf t1 t0 p t => Sys2Proof.Machine.execVshuf t1 t0 p t s
  | .vred imm t0 p t => Sys2Proof.Machine.execVred imm t0 p t s
  | .vscan imm t0 p t => Sys2Proof.Machine.execVscan imm t0 p t s
  | .vins t1 t0 p t => Sys2Proof.Machine.execVins t1 t0 p t s
  | .vext t1 t0 p t => Sys2Proof.Machine.execVext t1 t0 p t s
  | .vcmpr t1 t0 p u => Sys2Proof.Machine.execVcmpr t1 t0 p u s
  | .ldv lsid imm t0 p => Sys2Proof.Machine.execLdv lsid imm t0 p s
  | .stv lsid imm p => Sys2Proof.Machine.execStv lsid imm p s
  | .lds lsid imm t0 p t => Sys2Proof.Machine.execLds lsid imm t0 p t s
  | .sts lsid imm p t => Sys2Proof.Machine.execSts lsid imm p t s
  | .ldgv lsid imm t0 p t => Sys2Proof.Machine.execLdgv lsid imm t0 p t s
  | .stsv lsid imm p t => Sys2Proof.Machine.execStsv lsid imm p t s
  | .ldvs lsid imm t0 p t => Sys2Proof.Machine.execLdvs lsid imm t0 p t s
  | .stvs lsid imm p t => Sys2Proof.Machine.execStvs lsid imm p t s
  | .aop lsid fn t0 p t => Sys2Proof.Machine.execAop lsid fn t0 p t s
  | .acas lsid t0 p t => Sys2Proof.Machine.execAcas lsid t0 p t s
  | .binit lsid sstep p => Sys2Proof.Machine.execBinit lsid sstep p s
  | .barv lsid p => Sys2Proof.Machine.execBarv lsid p s
  | .bexp lsid arr p => Sys2Proof.Machine.execBexp lsid arr p s
  | .bph lsid t0 p => Sys2Proof.Machine.execBph lsid t0 p s
  | .drain lsid p => Sys2Proof.Machine.execDrain lsid p s
  | .evsig lsid evop p => Sys2Proof.Machine.execEvsig lsid evop p s
  | .hget lsid dl rsc asc rel acq p => Sys2Proof.Machine.execHget lsid dl rsc asc rel acq p s
  | .hsnd lsid dl rsc asc rel acq p => Sys2Proof.Machine.execHsnd lsid dl rsc asc rel acq p s
  | .hgath lsid dl rsc asc rel acq p t => Sys2Proof.Machine.execHgath lsid dl rsc asc rel acq p t s
  | .hscat lsid dl rsc asc rel acq p t => Sys2Proof.Machine.execHscat lsid dl rsc asc rel acq p t s
  | .hsadd lsid dl rsc asc rel acq p t => Sys2Proof.Machine.execHsadd lsid dl rsc asc rel acq p t s
  | .hpfch lsid dl p => Sys2Proof.Machine.execHpfch lsid dl p s
  | .qpush lsid t0 p => Sys2Proof.Machine.execQpush lsid t0 p s
  | .qpop lsid t0 p => Sys2Proof.Machine.execQpop lsid t0 p s
  | .qstop lsid t0 p => Sys2Proof.Machine.execQstop lsid t0 p s
  | .tidset lsid entry p => Sys2Proof.Machine.execTidset lsid entry p s
  | .mxmul lsid ovr p => Sys2Proof.Machine.execMxmul lsid ovr p s
  | .mxdrn lsid sat p => Sys2Proof.Machine.execMxdrn lsid sat p s
  | .mxz lsid p => Sys2Proof.Machine.execMxz lsid p s
  | .plpin lsid p => Sys2Proof.Machine.execPlpin lsid p s
  | .plunp lsid p => Sys2Proof.Machine.execPlunp lsid p s
  | .pldlt lsid p => Sys2Proof.Machine.execPldlt lsid p s
  | .plrd lsid p => Sys2Proof.Machine.execPlrd lsid p s
  | .plspl lsid scope sync mem lossy p => Sys2Proof.Machine.execPlspl lsid scope sync mem lossy p s
  | .plfil lsid scope sync mem p => Sys2Proof.Machine.execPlfil lsid scope sync mem p s
  | .vdecl lsid slot p => Sys2Proof.Machine.execVdecl lsid slot p s
  | .fork lsid wait p => Sys2Proof.Machine.execFork lsid wait p s
  | .fence lsid scope p => Sys2Proof.Machine.execFence lsid scope p s
  | .ctlrd lsid t0 p => Sys2Proof.Machine.execCtlrd lsid t0 p s
  | .ctlwr lsid p => Sys2Proof.Machine.execCtlwr lsid p s
  | .sysc lsid imm t0 p => Sys2Proof.Machine.execSysc lsid imm t0 p s
  | .activation core bank => Sys2Proof.Machine.execActivation core bank s
  | .headerRead core bank sub => Sys2Proof.Machine.execHeaderRead core bank sub s
  | .blockCommit core rid => Sys2Proof.Machine.execBlockCommit core rid s
  | .rowCloseComplete core rid => Sys2Proof.Machine.execRowCloseComplete core rid s
  | .quantumEnd core rid => Sys2Proof.Machine.execQuantumEnd core rid s
  | .rowAged core rid => Sys2Proof.Machine.execRowAged core rid s
  | .blockStall core rid => Sys2Proof.Machine.execBlockStall core rid s
  | .forcedClose core rid => Sys2Proof.Machine.execForcedClose core rid s
  | .preciseTrap core rid => Sys2Proof.Machine.execPreciseTrap core rid s
  | .asyncCondition k => Sys2Proof.Machine.execAsyncCondition k s
  | .acknowledgement k => Sys2Proof.Machine.execAcknowledgement k s
  | .waitWake core rid => Sys2Proof.Machine.execWaitWake core rid s
  | .remoteStoreArrival k => Sys2Proof.Machine.execRemoteStoreArrival k s
  | .remoteAtomicArrival k => Sys2Proof.Machine.execRemoteAtomicArrival k s
  | .runreq core rid => Sys2Proof.Machine.execRunreq core rid s
  | .stopreq core rid => Sys2Proof.Machine.execStopreq core rid s
  | .redir core rid => Sys2Proof.Machine.execRedir core rid s
  | .qnotify f qid tail => Sys2Proof.Machine.execQnotify f qid tail s
  | .queueMapPending => Sys2Proof.Machine.execQueueMapPending s
  | .qcancel f qid index => Sys2Proof.Machine.execQcancel f qid index s
  | .selectionRound => Sys2Proof.Machine.execSelectionRound s
  | .gangDispatch => Sys2Proof.Machine.execGangDispatch s
  | .grelease f gang => Sys2Proof.Machine.execGrelease f gang s
  | .gangEnd gang => Sys2Proof.Machine.execGangEnd gang s
  | .tstopStop f => Sys2Proof.Machine.execTstopStop f s
  | .tstopResume f => Sys2Proof.Machine.execTstopResume f s
  | .stopCycle core => Sys2Proof.Machine.execStopCycle core s
  | .stopDeadline core => Sys2Proof.Machine.execStopDeadline core s
  | .coreQuiescent core => Sys2Proof.Machine.execCoreQuiescent core s
  | .contextSave core => Sys2Proof.Machine.execContextSave core s
  | .stopAbandon => Sys2Proof.Machine.execStopAbandon s
  | .resumeTime => Sys2Proof.Machine.execResumeTime s
  | .chunkStart core entry => Sys2Proof.Machine.execChunkStart core entry s
  | .chunkComplete core entry => Sys2Proof.Machine.execChunkComplete core entry s
  | .walkStart k => Sys2Proof.Machine.execWalkStart k s
  | .walkComplete k => Sys2Proof.Machine.execWalkComplete k s
  | .pageRequestRecord k => Sys2Proof.Machine.execPageRequestRecord k s
  | .prresp f tag status => Sys2Proof.Machine.execPrresp f tag status s
  | .tlbinv all f va => Sys2Proof.Machine.execTlbinv all f va s
  | .tlbinvDone => Sys2Proof.Machine.execTlbinvDone s
  | .hbmAdmit k => Sys2Proof.Machine.execHbmAdmit k s
  | .hbmServe k => Sys2Proof.Machine.execHbmServe k s
  | .deadlineUrgent k => Sys2Proof.Machine.execDeadlineUrgent k s
  | .refmarkNotLive region count => Sys2Proof.Machine.execRefmarkNotLive region count s
  | .refmarkLive region count => Sys2Proof.Machine.execRefmarkLive region count s
  | .zeroFillComplete region => Sys2Proof.Machine.execZeroFillComplete region s
  | .patrolScrub stack => Sys2Proof.Machine.execPatrolScrub stack s
  | .neighbourRefresh stack bank row => Sys2Proof.Machine.execNeighbourRefresh stack bank row s
  | .hbmRowRemap stack bank row => Sys2Proof.Machine.execHbmRowRemap stack bank row s
  | .leaseRevoke k => Sys2Proof.Machine.execLeaseRevoke k s
  | .leaseDeadline k => Sys2Proof.Machine.execLeaseDeadline k s
  | .exportDeadline k => Sys2Proof.Machine.execExportDeadline k s
  | .fabricIngress k => Sys2Proof.Machine.execFabricIngress k s
  | .fabricTimeout k => Sys2Proof.Machine.execFabricTimeout k s
  | .flitReplay port => Sys2Proof.Machine.execFlitReplay port s
  | .portRetrain port trained => Sys2Proof.Machine.execPortRetrain port trained s
  | .hostReadCompletion k status => Sys2Proof.Machine.execHostReadCompletion k status s
  | .hostReadTimeout k => Sys2Proof.Machine.execHostReadTimeout k s
  | .barrierArrival k => Sys2Proof.Machine.execBarrierArrival k s
  | .flipBroadcast k => Sys2Proof.Machine.execFlipBroadcast k s
  | .stepStartNotice gang => Sys2Proof.Machine.execStepStartNotice gang s
  | .drainArrivalSend k => Sys2Proof.Machine.execDrainArrivalSend k s
  | .superstepArrivalSend k => Sys2Proof.Machine.execSuperstepArrivalSend k s
  | .eventSignal k => Sys2Proof.Machine.execEventSignal k s
  | .eventWindowStore k => Sys2Proof.Machine.execEventWindowStore k s
  | .queueOpPerform core rid index => Sys2Proof.Machine.execQueueOpPerform core rid index s
  | .opaCommandAccept k => Sys2Proof.Machine.execOpaCommandAccept k s
  | .opaCommandStart core seq => Sys2Proof.Machine.execOpaCommandStart core seq s
  | .opaGroupFinal core seq => Sys2Proof.Machine.execOpaGroupFinal core seq s
  | .opaCommandComplete core seq => Sys2Proof.Machine.execOpaCommandComplete core seq s
  | .drainGroupWrite core seq => Sys2Proof.Machine.execDrainGroupWrite core seq s
  | .windowStorePerform core seq => Sys2Proof.Machine.execWindowStorePerform core seq s
  | .windowLoadServe core rid index => Sys2Proof.Machine.execWindowLoadServe core rid index s
  | .forkClaim core rid => Sys2Proof.Machine.execForkClaim core rid s
  | .forkSearchComplete core rid index => Sys2Proof.Machine.execForkSearchComplete core rid index s
  | .taskStart k => Sys2Proof.Machine.execTaskStart k s
  | .claimRelease k => Sys2Proof.Machine.execClaimRelease k s
  | .mergeStep k => Sys2Proof.Machine.execMergeStep k s
  | .pairMismatch k => Sys2Proof.Machine.execPairMismatch k s
  | .pairTimeout k => Sys2Proof.Machine.execPairTimeout k s
  | .rollback gang => Sys2Proof.Machine.execRollback gang s
  | .scdone f index => Sys2Proof.Machine.execScdone f index s
  | .capmint v => Sys2Proof.Machine.execCapmint v s
  | .keyGenerate owner slot => Sys2Proof.Machine.execKeyGenerate owner slot s
  | .keyDestroy slot => Sys2Proof.Machine.execKeyDestroy slot s
  | .keyErase slot => Sys2Proof.Machine.execKeyErase slot s
  | .parttabWrite node v => Sys2Proof.Machine.execParttabWrite node v s
  | .quarantine stack => Sys2Proof.Machine.execQuarantine stack s
  | .quarantineComplete => Sys2Proof.Machine.execQuarantineComplete s
  | .repairCommit => Sys2Proof.Machine.execRepairCommit s
  | .repairDiscard => Sys2Proof.Machine.execRepairDiscard s
  | .coreDisable core => Sys2Proof.Machine.execCoreDisable core s
  | .moduleReset => Sys2Proof.Machine.execModuleReset s
  | .bootctl v => Sys2Proof.Machine.execBootctl v s
  | .d3hotEntry => Sys2Proof.Machine.execD3hotEntry s
  | .d0Entry => Sys2Proof.Machine.execD0Entry s
  | .lockInterface f => Sys2Proof.Machine.execLockInterface f s
  | .startInterface f => Sys2Proof.Machine.execStartInterface f s
  | .stopInterface f => Sys2Proof.Machine.execStopInterface f s
  | .getDeviceInterfaceReport f => Sys2Proof.Machine.execGetDeviceInterfaceReport f s
  | .getDeviceInterfaceState f => Sys2Proof.Machine.execGetDeviceInterfaceState f s
  | .tdiError f => Sys2Proof.Machine.execTdiError f s
  | .getVersion die => Sys2Proof.Machine.execGetVersion die s
  | .getCapabilities die => Sys2Proof.Machine.execGetCapabilities die s
  | .negotiateAlgorithms die offer => Sys2Proof.Machine.execNegotiateAlgorithms die offer s
  | .getDigests die => Sys2Proof.Machine.execGetDigests die s
  | .getCertificate die slot offset len => Sys2Proof.Machine.execGetCertificate die slot offset len s
  | .challenge die nonce => Sys2Proof.Machine.execChallenge die nonce s
  | .getMeasurements die index nonce => Sys2Proof.Machine.execGetMeasurements die index nonce s
  | .keyExchange die => Sys2Proof.Machine.execKeyExchange die s
  | .finish die tagOk => Sys2Proof.Machine.execFinish die tagOk s
  | .heartbeat die tagOk => Sys2Proof.Machine.execHeartbeat die tagOk s
  | .keyUpdate die ok => Sys2Proof.Machine.execKeyUpdate die ok s
  | .endSession die => Sys2Proof.Machine.execEndSession die s
  | .heartbeatTimeout die => Sys2Proof.Machine.execHeartbeatTimeout die s
  | .relayTimeout die => Sys2Proof.Machine.execRelayTimeout die s
  | .ideKm stream key => Sys2Proof.Machine.execIdeKm stream key s
  | .registerWrite f off width v => Sys2Proof.Machine.execRegisterWrite f off width v s
  | .lpddrServe k => Sys2Proof.Machine.execLpddrServe k s
  | .arithmeticClockStep raise => Sys2Proof.Machine.execArithmeticClockStep raise s
  | .hostLinkTraining width rate => Sys2Proof.Machine.execHostLinkTraining width rate s
  | .remapCopyComplete stack bank row => Sys2Proof.Machine.execRemapCopyComplete stack bank row s

end Sys2Proof.Machine
end

