-- ==== Sys2Proof/Machine/Schedule.lean ====
section
/-!
DEFINITION. The passing of cycles (R65 to R74): what the device does by itself as a cycle begins, the order of the work of a cycle,
the choice of the instruction that each executor fires (R67, R230), and the events whose place in time the spec leaves open.
The order within a cycle is the model's (log 3); the order of events of different agents is a free choice (log 2).
-/

namespace Sys2Proof.Machine

/-! ### The executor (R67, R230) -/

/-- A slot whose instance may fire in this cycle. -/
def Slot.live (x : Slot) (cycle : Nat) : Bool := x.phase == .running && x.inst.start ≤ cycle && x.inst.failed.isNone

/-- The executor of a bank may issue an instruction: a special function only where the last one lies 4 cycles back. -/
def State.mayIssue (s : State) (core bank : Nat) (sh : Shape) : Bool := !sh.special || (s.coreSt core).special.getD bank 0 ≤ s.cycle

/-- The eligible instructions of a bank in the order of R67: ROWID, index, instruction. One that needs a free queue entry or record is not
eligible without it (R122, R302). -/
def State.eligibles (s : State) (core bank : Nat) : List (Nat × Nat × Instr) :=
  (sortBy (fun x : Slot => [x.inst.start, x.rid]) ((s.bankSlots core bank).filter fun x => x.live s.cycle)).flatMap fun x =>
    (List.range x.inst.ins.length).filterMap fun i => match (x.inst.ins[i]?).bind insOf with
      | some ins => if x.inst.eligible i s.cycle && s.mayIssue core bank (shape ins) && s.needMet core x.rid ins then some (x.rid, i, ins) else none
      | none => none

/-- The state in which instruction `idx` of a row fires: the cursor on it, and the issue limit of special functions taken. -/
def State.issue (s : State) (core rid idx : Nat) (special : Bool) : State :=
  let c := s.coreSt core
  { s with
    cursor := some (core, rid, idx)
    cores := if special then Tab.set s.cores core { c with special := c.special.set (bankOf rid) (s.cycle + 4) } else s.cores }

/-- The instruction under the cursor has fired. -/
def State.firedAt (s : State) (core rid idx : Nat) : Bool := (s.slot? core rid).any fun x => x.inst.fired.any fun f => f.1 == idx

/-- Fire the first that can: one that waits for a queue entry or a record does not fire (R122, R302), and the next is tried. -/
def fireFirst (core : Nat) : List (Nat × Nat × Instr) → State → Host.Outcome State Fault Refusal
  | [], s => .next s
  | (rid, idx, i) :: rest, s =>
    match exec i (s.issue core rid idx (shape i).special) with
    | .next t => if t.firedAt core rid idx then .next t else fireFirst core rest s
    | o => o

/-! ### The beginning of a cycle -/

/-- Nanoseconds pass with the cycles of the arithmetic clock (R6, R26). Every core reads the same time base: the rule lets their readings lie up
to 4 ns apart (log 111). PSTAT's clock is the average of the last whole millisecond (R326, log 87). In ROM recovery the time base has not started. -/
def passTime (s : State) : State :=
  let n := s.timeFrac + if s.recovery then 0 else 1000
  let t := s.time + n / s.clock
  let turn := t / 1000000 * 1000000
  { s with
    cycle := s.cycle + 1, time := t, timeFrac := n % s.clock
    clockAvg := if s.time < turn then (s.clockSum + s.clock * (turn - s.time)) / 1000000 else s.clockAvg
    clockSum := if s.time < turn then s.clock * (t - turn) else s.clockSum + s.clock * (t - s.time) }

/-- An opening ends in the cycle in which header reads may be served (R65). -/
def openRow (x : Slot) (cycle : Nat) : Slot :=
  match x.phase with
  | .opening _ =>
    if x.inst.start ≤ cycle then { x with phase := if x.inst.failed.isSome then .trap x.inst.start else .running } else x
  | _ => x

/-- The watermark of a tile that is being cleared rises by 16 in each cycle (R258), unless a writer has been accepted on it. -/
def clearStep (core : Nat) (t : Nat × Nat) : Act :=
  .get fun s =>
    let n := s.cycle - t.2
    .all [.when (!(s.coreSt core).opa.any fun e => e.tile == t.1 && e.cmd.writes) (setWmark core t.1 (16 * min n 8)),
          .when (8 ≤ n) (modCore core fun c => { c with clears := c.clears.filter (· != t) })]

/-- What a held message waits for has come about: for the release write of a command, the earlier accesses of its row and the other writes of
its own, within its scope (R146); for another, the fences of its row (R147). -/
def State.mayGo (s : State) (m : Msg) : Bool :=
  match m.pay with
  | .store _ _ _ (some id) | .atomic _ (some id) =>
    (s.acc? id).all fun a => (s.entry? a.core a.entry).all fun h =>
      s.rowDone m.org.core m.org.rid m.waits h.rscope false && !s.accs.any fun b => b.core == a.core && b.entry == a.entry && !b.last
  | _ => !s.fenceHolds m.org.core m.org.rid m.org.seq

/-- Messages held for a fence or a release go once everything before them is done (R146, R147), and wait for a partner from then on (R364); arrivals
have steps of their own. -/
def releaseHeld (s : State) : State :=
  { s with mesh := s.mesh.map fun m =>
      let arrival := match m.pay with | .arrive .. => true | _ => false
      if m.held && !arrival && m.waits != 0 && !s.stepHeld m.org && s.mayGo m then { m with held := false, since := s.cycle } else m }

/-- Fences that have been met for every observer (R147). -/
def dropFences (s : State) : State :=
  { s with rows := s.rows.map fun r =>
      (r.1, { r.2 with fences := r.2.fences.filter fun f => !s.rowDone (r.1 / 512) (r.1 % 512) f.1 5 true }) }

/-- Postings of superstep gangs that no longer wait (R302, R366). -/
def postHeld : Act :=
  .get fun s => .each (s.mesh.zipIdx.filter fun m => !m.1.held && m.1.pair.isNone) fun m => match m.1.pay with
    | .post i svc a0 a1 reply rbar => .all [
        upd fun s => { s with mesh := s.mesh.filter fun x => x != m.1 },
        postCall m.1.org.core m.1.org.rid i svc a0 a1 reply rbar m.1.org]
    | _ => .done

/-- Reads whose data waits for a release or for room reach their cores (R74, R146). -/
def landReads : Act :=
  .get fun s => .each s.accs fun a => match a.state with
    | .land bs => landRead a bs
    | _ => .done

/-- What the device does as a cycle begins. -/
def beginCycle : Act :=
  .all [
    upd passTime,
    upd fun s => { s with slots := s.slots.map fun x => openRow x s.cycle },
    .get fun s => .each s.cores fun c => .each c.2.clears (clearStep c.1),
    upd releaseHeld, upd dropFences, postHeld, comparePairs, keepLogs,
    .each (List.range 13) sessionExpires, .each (List.range 13) relayExpires, presentAccs,
    .get fun s => .each (s.accs.filter (·.isReady)) fun a => issueAcc a.id,
    retryPorts, landReads,
    .get fun s => .each (s.cores.filter fun c => s.accs.any fun a => a.core == c.1 && a.unread) fun c => readBeat c.1]

/-! ### The work of a cycle -/

/-- Banks of rows for which something may happen. -/
def State.banks (s : State) (p : Nat → Nat → Bool) : List (Nat × Nat) :=
  ((s.rows.filter fun r => p (r.1 / 512) (r.1 % 512)).map fun r => (r.1 / 512, bankOf (r.1 % 512))).eraseDups

/-- Banks with an instance that runs. -/
def State.busyBanks (s : State) : List (Nat × Nat) :=
  ((s.slots.filter fun x => x.live s.cycle).map fun x => (x.core, bankOf x.rid)).eraseDups

/-- The wait of a row has ended (R209). -/
def State.woken (s : State) (core rid : Nat) : Bool :=
  let k := s.waitk core rid
  s.code core rid == 3 && ((s.row? core rid).any (·.wake) || ((k == 1 || k == 3 || k == 4) && s.waitMet core rid))

/-- A ready row becomes aged, or an aged one still needs a mark (R97, R100). -/
def State.agingDue (s : State) (core rid : Nat) : Bool :=
  s.code core rid == 1 && (s.row? core rid).any (fun r => r.ready + 2048 ≤ s.cycle && (!r.aged
    || !(s.couldOpen core rid (s.bankSlots core (bankOf rid)) || (s.bankSlots core (bankOf rid)).any fun x => x.mark == some rid)))

/-- Boundaries, trap boundaries, the ends of closings, wakes and aging of rows. -/
def rowWork (s : State) : List Instr :=
  s.slots.filterMap (fun x => match x.phase with
      | .boundary t => if t == s.cycle then some (.blockCommit x.core x.rid) else none
      | .trap t => if t == s.cycle then some (.preciseTrap x.core x.rid) else none
      | .closing t => if t < s.cycle then some (.rowCloseComplete x.core x.rid) else none
      | _ => none)
    ++ (s.rows.filter fun r => s.woken (r.1 / 512) (r.1 % 512)).map (fun r => .waitWake (r.1 / 512) (r.1 % 512))
    ++ (s.rows.filter fun r => s.agingDue (r.1 / 512) (r.1 % 512)).map fun r => .rowAged (r.1 / 512) (r.1 % 512)

/-- Openings: up to 4 in a bank that has a ready row. -/
def openWork (s : State) : List Instr :=
  (s.banks fun c r => s.code c r == 1).flatMap fun b => List.replicate 4 (.activation b.1 b.2)

/-- Header reads of the four sub-arrays. -/
def readWork (s : State) : List Instr :=
  s.busyBanks.flatMap fun b => (List.range 4).map fun k => .headerRead b.1 b.2 k

/-- What the OPAs do in a cycle: window stores, the starts of commands, and the reads and writes of drains. -/
def opaWork (s : State) : List Instr :=
  s.cores.flatMap fun c => c.2.opa.flatMap fun e =>
    if e.cmd.op = 0 then [.windowStorePerform c.1 e.seq] else [.opaCommandStart c.1 e.seq, .drainGroupWrite c.1 e.seq]

/-- What becomes final or completes at the end of a cycle (R260). -/
def opaEnds (s : State) : List Instr :=
  s.cores.flatMap fun c => c.2.opa.flatMap fun e => if e.cmd.op = 0 then [] else [.opaGroupFinal c.1 e.seq, .opaCommandComplete c.1 e.seq]

/-- Waits of instances: queue operations in the order in which they have reached their bank units (R290), window loads, and searches that have
lasted 64 cycles. -/
def waitWork (s : State) : List Instr :=
  let queued : List (Nat × Instr) := s.slots.flatMap fun x => x.inst.waits.filterMap fun w => match w.2 with
    | .queue _ _ _ _ (some t) => some (t, .queueOpPerform x.core x.rid w.1)
    | _ => none
  let fresh : List Instr := s.slots.flatMap fun x => x.inst.waits.filterMap fun w => match w.2 with
    | .queue _ _ _ _ none => some (.queueOpPerform x.core x.rid w.1)
    | _ => none
  (sortBy (fun q : Nat × Instr => [q.1]) queued).map (·.2) ++ fresh ++ s.slots.flatMap fun x => x.inst.waits.filterMap fun w => match w.2 with
    | .window .. => some (.windowLoadServe x.core x.rid w.1)
    | .search want found since =>
      if since + 64 ≤ s.cycle ∨ want ≤ found.length then some (.forkSearchComplete x.core x.rid w.1) else none
    | _ => none

/-- Held arrivals for which what they wait for has come about (R283, R285, R366). -/
def arrivalWork (s : State) : List Instr :=
  s.mesh.zipIdx.filterMap fun m => match m.1.pay with
    | .arrive .. =>
      if s.arrivalDue m.1 then
        some (if (s.gang? m.1.org.gang).any (·.superstep) then .superstepArrivalSend m.2 else .drainArrivalSend m.2)
      else none
    | _ => none

/-- The stop or resume in progress (R103 to R107, R356). -/
def stopWork (s : State) : List Instr :=
  match s.stop with
  | none => []
  | some t =>
    if t.resume then (if t.time ≤ s.time then [.resumeTime] else [])
    else if s.time < t.time then []
    else if t.flushed then
      (t.cores.filter fun c => !t.saved.contains c).map .contextSave
        ++ (if t.cores.all t.saved.contains && !s.saving t.func then [.contextSave saveUnit] else [])
    else if t.cores.isEmpty then [.stopCycle 0]
    else if t.time + 1000000 ≤ s.time then [.stopAbandon]
    else (t.cores.filter fun c => (s.coreSt c).stopping.isNone).map .stopCycle
      ++ (if t.time + 8192 ≤ s.time then t.cores.map .stopDeadline else [])
      ++ (t.cores.filter fun c => !(s.coreSt c).quiet).map .coreQuiescent

/-- Capstan: due dispatches, and a round every 32 cycles (R86). -/
def capstanWork (s : State) : List Instr :=
  (if s.binding.any (fun b => b.go.any (· ≤ s.cycle)) then [.gangDispatch] else [])
    ++ (if s.cycle % 32 = 0 then [.selectionRound] else [])

/-- The ends of gangs (R96, R329), and step-start notices (R366). -/
def gangWork (s : State) : List Instr :=
  (s.gangs.filter s.gangEnds).map (fun g => .gangEnd g.id)
    ++ (s.gangs.filter fun g => g.superstep && !g.snapshots.isEmpty && g.allCores.all g.snapshots.contains).map fun g => .stepStartNotice g.id

/-- Deadlines, timeouts, invalidations and erasures that are due; a patrol scrub of every stack once in 24 hours (R371). -/
def dueWork (s : State) (was : Nat) : List Instr :=
  s.accs.flatMap (fun a => match a.state with
      | .fabric .. => if a.since + 1000000 ≤ s.time then [.fabricTimeout a.id] else []
      | .host _ | .walkLost => if a.since + 50000000 ≤ s.time then [.hostReadTimeout a.id] else []
      | .admission _ | .bank .. => if !a.urgent && a.deadline.any (fun d => d ≤ s.time / 64 + 4) then [.deadlineUrgent a.id] else []
      | _ => [])
    ++ ((List.range 64).filter fun i => s.leaseState i == 2 && s.lease i 3 ≤ s.time && !s.leaseBusy i).map .leaseDeadline
    ++ ((List.range 64).filter fun i => bits (s.export' i 0) 63 62 == 2 && s.export' i 3 ≤ s.time).map .exportDeadline
    ++ ((List.range 1024).filter fun k => bit (s.keyOwn k) 14 && !s.keyBusy k).map .keyErase
    ++ (if !s.invals.isEmpty && s.invals.all s.invalDone then [.tlbinvDone] else [])
    ++ (s.remapping.filter fun r => r.time + 2000 ≤ s.time).map (fun r => .remapCopyComplete r.stack r.bank r.row)
    ++ s.serveDue.map .hbmServe
    ++ (if s.overCap then [.arithmeticClockStep false] else [])
    ++ (if was / 86400000000000 ≠ s.time / 86400000000000 then (List.range 8).map .patrolScrub else [])

/-- A commit ends in this cycle. -/
def Slot.commits (x : Slot) (cycle : Nat) : Bool := match x.phase with | .commit t => t == cycle | _ => false

/-- A part of a cycle, in the order of log 3: first stops, Capstan, boundaries and the slots that become free; then what that makes ready opens,
gangs end, reads are served and executors fire; then the array, the waits and what is due, and the events whose place is open; last the checks,
the commits that end, what becomes final with the cycle, and the conditions of wait exits (R209). -/
def plan (n was : Nat) (s : State) : List Work :=
  match n with
  | 0 => (stopWork s ++ capstanWork s ++ rowWork s).map .op ++ [.stage 1 was]
  | 1 => (gangWork s ++ openWork s ++ readWork s).map .op ++ s.busyBanks.map (fun b => .fire b.1 b.2) ++ [.stage 2 was]
  | 2 => (opaWork s ++ waitWork s ++ arrivalWork s ++ dueWork s was).map .op ++ [.async, .stage 3 was]
  | _ => (s.slots.filter fun x => x.phase == .running && x.inst.start ≤ s.cycle).map (fun x => .check x.core x.rid)
    ++ (s.slots.filter (·.commits s.cycle)).map (fun x => .op (.blockCommit x.core x.rid))
    ++ (opaEnds s).map .op ++ (s.slots.filter (·.commits s.cycle)).map (fun x => .judge x.core x.rid)

/-- The next part of the cycle is planned. -/
def planned (n was : Nat) (s : State) : State := { s with work := plan n was s ++ s.work }

/-- The next cycle begins. -/
def nextCycle (s : State) : State :=
  let t := beginCycle.run s
  { t with work := t.work ++ plan 0 s.time t }

/-! ### Events whose place in time is open -/

/-- The step of a message of the mesh. -/
def Msg.step (m : Msg) (k : Nat) : Option Instr :=
  match m.pay with
  | .store .. => some (.remoteStoreArrival k)
  | .atomic .. => some (.remoteAtomicArrival k)
  | .arrive .. => some (.barrierArrival k)
  | .flip .. => some (.flipBroadcast k)
  | .signal .. => some (.eventSignal k)
  | .lineStore .. => some (.eventWindowStore k)
  | .opa _ => some (.opaCommandAccept k)
  | .start .. => some (.taskStart k)
  | .release _ => some (.claimRelease k)
  | .merge .. => some (.mergeStep k)
  | .ack none _ => some (.acknowledgement k)
  | .ack (some _) _ => some (.asyncCondition k)
  | .cond _ => some (.asyncCondition k)
  | .chunk _ => none
  | .post .. => none

/-- The steps that an access may take next. -/
def Acc.steps (a : Acc) : List Instr :=
  match a.state with
  | .miss => [.walkStart a.id]
  | .walk => [.walkComplete a.id, .hostReadCompletion a.id 1, .hostReadCompletion a.id 2, .hostReadCompletion a.id 3]
  | .page none => [.pageRequestRecord a.id]
  | .admission _ => [.hbmAdmit a.id]
  | .bank .. => [.hbmServe a.id]
  | .lpddr => [.lpddrServe a.id]
  | .host false => (List.range 4).map (.hostReadCompletion a.id)
  | _ => []

/-- Chunks that may start or that are complete. -/
def State.chunkSteps (s : State) : List Instr :=
  s.cores.flatMap fun c => c.2.halyard.flatMap fun e =>
    if s.chunkReady c.1 e.2 then [.chunkStart c.1 e.1]
    else if e.2.chunk && !s.served c.1 e.1 e.2 && !(s.accs.any fun a => a.core == c.1 && a.entry == e.1) then [.chunkComplete c.1 e.1]
    else []

/-- Claims of the searches in progress. -/
def State.claimSteps (s : State) : List Instr :=
  s.slots.filterMap fun x =>
    if x.inst.waits.any (fun w => match w.2 with | .search want found _ => found.length < want | _ => false) then some (.forkClaim x.core x.rid)
    else none

/-- What the outside world does next: a step, or a change of the state (log 11). -/
def State.input (s : State) : Input → State × Option Instr
  | .step i => (s, some i)
  | .hostWrite a bs => ((put (hostKey a) bs).run s, none)
  | .packet p => ({ s with packets := s.packets ++ [p] }, none)
  | .stage off bs => ((stageWrite off bs).run s, none)
  | .relay d => ((relayRequest d).run s, none)
  | .forged d => ((forgedMessage d).run s, none)

/-- The events that may come next, each with the state it acts on and its step, if it has one: those of the device, the oldest of the outside
world, and register writes that waited for a page. -/
def State.events (s : State) : List (State × Option Instr) :=
  let msgs : List Instr := s.mesh.zipIdx.filterMap fun m =>
    if s.deliverable m.2 && (match m.1.pay with | .merge .. => s.chainTurn m.2 | _ => true) then m.1.step m.2 else none
  let ports := (List.range 76).filter fun p => !s.portUp p || 16 ≤ s.replayCount p
  let own : List Instr := msgs ++ s.accs.flatMap Acc.steps ++ s.chunkSteps ++ s.claimSteps ++ s.filling.map Instr.zeroFillComplete
    ++ s.remapping.map (fun r => Instr.remapCopyComplete r.stack r.bank r.row)
    ++ (if s.quarantine.isSome then [Instr.quarantineComplete] else [])
    ++ ((s.packets.zipIdx.filter fun p => s.packetTurn p.2 p.1).map fun p => Instr.fabricIngress p.2)
    ++ ports.flatMap (fun p => [Instr.portRetrain p true, Instr.portRetrain p false])
    ++ [Instr.arithmeticClockStep true]
  own.map (fun i => (s, some i))
    ++ (match s.inputs with | i :: rest => [{ s with inputs := rest }.input i] | [] => [])
    ++ s.pendingOps.zipIdx.map fun p => ({ s with pendingOps := s.pendingOps.eraseIdx p.2 }, some p.1)

/-- One open event comes about, and more may follow in the same cycle; or none does. -/
def runEvent (s : State) : Host.Outcome State Fault Refusal :=
  let es := s.events
  let n := Config.pick s.pickCtr % (es.length + 1)
  match es[n]? with
  | none => .next { s with pickCtr := s.pickCtr + 1 }
  | some e =>
    let t := { e.1 with pickCtr := s.pickCtr + 1, work := .async :: s.work }
    match e.2 with
    | some i => exec i t
    | none => .next t

/-! ### One piece of work -/

/-- The end of a cycle in an instance, and the check of one that can make no progress (R193). -/
def checkWork (core rid : Nat) (s : State) : State :=
  let t := (checkRow core rid).run s
  if t.stalled core rid then { t with work := .op (.blockStall core rid) :: t.work } else t

/-- The condition of the wait exit of an instance that has committed in this cycle (R209). -/
def judgeRow (core rid : Nat) : Act :=
  .get fun s => match s.slot? core rid with
    | some l => match l.inst.exit with
      | some e => .when (l.phase == .boundary (s.cycle + 1)) (judgeWait core rid e)
      | none => .done
    | none => .done

/-- Do a piece of work. -/
def runWork (w : Work) (s : State) : Host.Outcome State Fault Refusal :=
  match w with
  | .op i => exec i s
  | .fire core bank => fireFirst core (s.eligibles core bank) s
  | .check core rid => .next (checkWork core rid s)
  | .judge core rid => .next ((judgeRow core rid).run s)
  | .async => runEvent s
  | .stage n was => .next (planned n was s)

/-! ### An instruction placed from outside (log 19) -/

/-- The place in its block of an instruction that is placed: the first that none of its targets names. -/
def placeIndex (sh : Shape) : Nat := ((List.range 3).find? fun k => sh.targets.all fun t => t % 64 != k).getD 0

/-- The slots that an instruction uses at an index. -/
def Shape.slots (sh : Shape) (idx : Nat) : List Nat :=
  (if sh.a.isSome then [slotA idx] else []) ++ (if sh.b.isSome then [slotB idx] else []) ++ (if sh.c.isSome then [slotC idx] else [])
    ++ (if sh.p != .always then [slotP idx] else [])

/-- A header whose read entries bring s0 to some slots, for a body of `n` instructions in `hw` halfwords (R183 to R185). -/
def placeHeader (slots : List Nat) (n hw : Nat) : List Nat :=
  let e (i : Nat) : Nat := (slots[i]?).elim 0x3F00 fun t => 0x1800 + t
  [n - 1 + 32 * hw, e 0 + 65536 * (e 1 + 65536 * (e 2 + 65536 * e 3)), 0x3F003F003F003F00, 0x3F3F3F3F3F3F3F3F]

/-- The raw word of the instruction whose bits are `w`: a halfword where bit 0 is 0 (R182). -/
def rawWord (nbits w : Nat) : Nat := if w % 2 = 0 then w % 2 ^ nbits % 65536 else w % 2 ^ nbits % 2 ^ 32

/-- A running instance in which the instruction of a raw word is the only one that has not fired, with its operands delivered: 0 in
each slot it uses, and in its predicate slot a number that P matches. The instructions before it are MOV. -/
def placeInst (raw cycle : Nat) : Inst :=
  let sh := (insOf raw).elim .step shape
  let idx := placeIndex sh
  let pv := if sh.p == .onTrue then 1 else 0
  { Inst.blank 0x01800000 (placeHeader (sh.slots idx) (idx + 1) (idx + if raw % 2 = 0 then 1 else 2)) (List.replicate idx 0x0016 ++ [raw]) with
    reads := []
    toks := (sh.slots idx).zipIdx.map fun t =>
      { dest := t.1, val := .ofNat (if 192 ≤ t.1 then pv else 0), due := cycle - 1, from? := 64 + t.2 }
    fired := (List.range idx).map fun k => (k, 0) }

/-- The bytes of a placed block. -/
def placeBlock (x : Inst) : List Byte :=
  x.header.flatMap (leBytes 8) ++ x.ins.flatMap fun w => leBytes (if w % 2 = 0 then 2 else 4) w

/-- Place an instruction where the executor of bank 0 of core 0 takes its next one: row 0 is open with an instance that is ready to
fire it, alone in its bank, and the next piece of work is that executor's. For SYSC, which else would wait (R302), function 0 has a record. -/
def placeWord (nbits w : Nat) : Act :=
  .get fun s =>
    let x := placeInst (rawWord nbits w) s.cycle
    .all [
      put (Space.loc 0 x.pc) (placeBlock x), setPc 0 0 x.pc, setCode 0 0 2,
      .when ((insOf (rawWord nbits w)).any fun i => Machine.Instr.need i == .record) (putLe (Space.bar 0 0x40) 2 1),
      upd fun s => { s with
        rows := Tab.set s.rows 0 ((s.row? 0 0).getD (RowSt.fresh 0))
        cores := Tab.set s.cores 0 { s.coreSt 0 with special := (s.coreSt 0).special.set 0 0 }
        slots := { core := 0, rid := 0, openedAt := 0, boundaries := 0, mark := none, phase := .running, inst := x, next := none }
          :: s.slots.filter fun y => !(y.core == 0 && bankOf y.rid == 0)
        work := .fire 0 0 :: s.work }]

end Sys2Proof.Machine
end

