-- ==== Sys2Proof/Machine/Step.lean ====
section
/-!
DEFINITION. One step of the machine: the next piece of the current cycle's work, or the beginning of the next cycle.
-/

namespace Sys2Proof.Machine

/-- One step. -/
def step (s : State) : Host.Outcome State Fault Refusal :=
  match s.work with
  | [] => .next (nextCycle s)
  | w :: rest => runWork w { s with work := rest }

/-- The machine with an instruction placed so that the next step fires it (log 19). -/
def State.withFetchWord (s : State) (nbits w : Nat) : State := (placeWord nbits w).run s

end Sys2Proof.Machine
end

