-- ==== Sys2Proof/Safety.lean ====
section
/-!
DEFINITION. What counts as a good state and a safe run, and the terms that statements use for what an instruction of a block
does when it fires: it changes its own instance and nothing else.
-/

namespace Sys2Proof

/-- The invariant that every step keeps: memory is in canonical form. -/
def Machine.State.Inv (s : Machine.State) : Prop := Machine.Memory.wf s.mem = true

/-- The machine neither faults nor refuses in any number of steps from a state. -/
def Safe (s : Machine.State) : Prop := ∀ k, ∃ t, core.run k s = .next t

namespace Machine

/-- An instruction fires and goes on to its own effect: the cursor names it in a running instance, its operands are of the kinds it
takes (R190, R191, R374), and a scalar predicate matches (R191). -/
def Fires (i : Instr) (s : State) (f : Fired) : Prop :=
  s.fired? i = some f ∧ kindCheck f = none ∧ (f.sh.p = .always ∨ f.p.isVec = true ∨ scalarMatch f.sh.p f.p = true)

/-- A state with the instance of a row changed, and nothing else. -/
def State.withInst (s : State) (core rid : Nat) (g : Inst → Inst) : State :=
  { s with slots := s.slots.map fun x => if x.core == core && x.rid == rid then { x with inst := g x.inst } else x }

/-- A state in which a firing of a latency is noted in its instance, which changes by `g` too. -/
def State.afterFor (s : State) (f : Fired) (lat : Nat) (g : Inst → Inst) : State :=
  s.withInst f.core f.rid fun x => g { x with fired := x.fired ++ [(f.idx, s.cycle)], busy := x.busy ++ [(f.idx, s.cycle + lat - 1)] }

/-- A state in which a firing is noted in its instance, which changes by `g` too. -/
def State.after (s : State) (f : Fired) (g : Inst → Inst) : State := s.afterFor f f.sh.lat g

/-- The tokens that an instruction delivers: one for each of its targets, by the end of its latency (R68). -/
def Fired.tokens (f : Fired) (out : Token) (due : Nat) : List Tok :=
  f.sh.targets.map fun t => { dest := t, val := out, due := due, from? := f.idx }

/-- A state in which an instruction has fired and delivers a token and flags, and nothing else has changed. -/
def State.delivers (s : State) (f : Fired) (out : Token) (fl : Flags := {}) : State :=
  s.after f fun x => { x with flags := Flags.or x.flags fl, toks := x.toks ++ f.tokens out (s.cycle + f.sh.lat - 1) }

/-- A state in which an instruction has fired and holds an effect for the commit (R71), and nothing else has changed. -/
def State.holdsEffect (s : State) (f : Fired) (e : Effect) : State :=
  s.after f fun x => { x with effects := insertEffect (f.lsid, f.idx, e) x.effects }

/-- A state in which an exit has fired and is taken (R204), and nothing else has changed. -/
def State.takesExit (s : State) (f : Fired) (kind : ExitKind) (target : Nat) : State :=
  let e : Exit :=
    { kind := kind, index := f.idx, target := target, a := f.a.num, b := f.b.num, c := f.c.num,
      due := s.cycle + f.sh.lat - 1, tasks := [], cell := 0 }
  s.after f fun x => { x with exit := some e }

/-- The state in which an instruction's own program runs: its firing is noted. -/
def State.noted (s : State) (f : Fired) : State := s.after f id

/-- A state in which an instruction has fired whose predicate does not match: it delivers an all-null result by the end of the cycle (R67, R191),
and nothing else has changed. -/
def State.deliversNull (s : State) (f : Fired) : State :=
  s.afterFor f 1 fun x => { x with toks := x.toks ++ f.tokens (nullResult f.sh f.a f.b) s.cycle }

/-- A word is a finite FP32 value: its exponent field is not all ones (R155). -/
def fp32Finite (w : Nat) : Bool := w < 2 ^ 32 && w / 2 ^ 23 % 256 != 255

/-- The value of a finite FP32 word in units of 2 ^ (-149), the smallest subnormal: read from the sign, exponent and fraction fields
(R155, R156). -/
def fp32Units (w : Nat) : Int :=
  let e := w / 2 ^ 23 % 256
  let m := w % 2 ^ 23
  let size : Nat := if e = 0 then m else (2 ^ 23 + m) * 2 ^ (e - 1)
  if w / 2 ^ 31 % 2 = 1 then - (size : Int) else (size : Int)

/-- Every bit of the 32 bytes of a barrier object may be written (R8): they lie in no row's control fields and in no queue descriptor. -/
def State.plainObject (s : State) (core a : Nat) : Prop :=
  ((s.row? core (ridOf a)).isSome = true → 0x100 ≤ a % 4096) ∧ ∀ j, j < 32 → s.inQueue core (a + j) = false

/-- Operands that an LSID-carrying instruction or an exit accepts: none poisoned that it consumes, none null that it uses (R273, R374). -/
def usable (consumed used : List Token) : Prop := consumed.any Token.poisoned = false ∧ used.any Token.allNull = false

end Machine

end Sys2Proof
end

