-- ==== Sys2Proof/Certificates/Slice0/Obligations.lean ====
section
/-!
DEFINITION. The statements for the provers. Each says which rule of the spec it formalises, or that it is the model's choice.
-/

open Sys2Proof Sys2Proof.Machine

/-! ### Encoding and firing -/

/-- Decoding the bytes of an encoded well-formed instruction gives it back, with every operand, and leaves the rest of the body. The
encodings are those of R196 and R201; a step has none. -/
def Obligations.DecodeEncode : Prop :=
  ∀ (i : Instr) (n w : Nat) (rest : List Byte), i.wf = true → encode i = some (n, w) →
    decode (leBytes (n / 8) w ++ rest) = .ok (i, rest)

/-- Each encoding has one meaning and each instruction one encoding: bytes that decode to an instruction are its encoding, in the
length of R182, and it is well formed (R203). -/
def Obligations.EncodeDecode : Prop :=
  ∀ (bs rest : List Byte) (i : Instr), decode bs = .ok (i, rest) →
    i.wf = true ∧ ∃ n w, encode i = some (n, w) ∧ bs = leBytes (n / 8) w ++ rest

/-- Words that the spec writes out decode to the instructions it gives for them (listing lines n47, n50 and n52 under R203, and the MOVI
of R219). -/
def Obligations.SpecWordsDecode : Prop :=
  decodeTableWord 32 0x78380061 = some (.vadd .rne 0xE0 0xE0 .always .i32)
  ∧ decodeTableWord 32 0xFFC24D57 = some (.addis 0x3FF 0x09 .always .i64)
  ∧ decodeTableWord 32 0x00040321 = some (.movi 4 3)
  ∧ decodeTableWord 32 0x01388D57 = some (.addis 4 0xE2 .always .i64)
  ∧ decodeTableWord 32 0x00000B21 = some (.movi 0 0x0B)

/-- R197: P encodes 0b00 unpredicated, 0b01 fire on true, 0b10 fire on false, and 0b11 is reserved.

R200: STYPE 0 to 7 stand for the lane types I32, N32, FP32, BF16x2, FP16x2, I8x4, E4M3x4 and DM8x4, whose T codes are 0, 1, 6, 7, 8, 4, 9
and 12. -/
def Obligations.EncodingCodes : Prop :=
  (Pred.ofCode? 0 = some .always ∧ Pred.ofCode? 1 = some .onTrue ∧ Pred.ofCode? 2 = some .onFalse ∧ Pred.ofCode? 3 = none
  ∧ ∀ w, w % 2 = 1 → w / 4096 % 4 = 3 → w / 2 % 128 ≠ 0x10 → w / 2 % 128 ≠ 0x11 → ∃ r, decodeWord w = .error r)
  ∧ ((List.range 8).map (fun c => (ShortType.ofCode? c).map fun t => (t.lane, t.lane.code))
    = [some (.i32, 0), some (.n32, 1), some (.fp32, 6), some (.bf16x2, 7), some (.fp16x2, 8), some (.i8x4, 4), some (.e4m3x4, 9),
       some (.dm8x4, 12)])

/-- A step runs the decoded instruction: where the next piece of work is an executor's, the step is `exec` of the first of the instructions
that are eligible in the order of R67, with the cursor on it and the issue limit of R230 taken. The instruction is the one that its raw
word in the body decodes to. One that waits after all, for a queue entry or a record (R122, R302), does not fire, and the next is tried. -/
def Obligations.StepRunsDecoded : Prop :=
  ∀ (s : State) (core bank rid idx : Nat) (i : Instr) (rest : List (Nat × Nat × Instr)) (w : List Work),
    s.work = .fire core bank :: w → State.eligibles { s with work := w } core bank = (rid, idx, i) :: rest →
    (step s = match exec i (State.issue { s with work := w } core rid idx (shape i).special) with
      | .next t => if t.firedAt core rid idx then .next t else fireFirst core rest { s with work := w }
      | stop => stop)
    ∧ ∃ x ∈ s.slots, x.core = core ∧ x.rid = rid ∧ x.phase = .running ∧ ∃ raw, x.inst.ins[idx]? = some raw ∧ decodeWord raw = .ok i

/-- An instruction of a block whose scalar predicate does not match delivers an all-null token of its result's kind to every target by the
end of the cycle in which it fires (R67) and does nothing else (R191). The executor's firing is noted (R193). -/
def Obligations.PredicateOff : Prop :=
  ∀ (i : Instr) (n w : Nat) (s : State) (f : Fired), encode i = some (n, w) → s.fired? i = some f → kindCheck f = none →
    f.sh.p ≠ .always → f.p.isVec = false → scalarMatch f.sh.p f.p = false →
      exec i s = .next (s.deliversNull f)

/-- No token instruction stores anything or touches another row: what it answers is the state before with one instance changed. -/
def Obligations.TokenFrame : Prop :=
  ∀ (i : Instr) (s t : State), (shape i).lsid = none → (shape i).isExit = false → (shape i).res ≠ .none → exec i s = .next t →
    ∃ f g, s.fired? i = some f ∧ t = s.withInst f.core f.rid g

/-! ### Token instructions -/

/-- MOVI delivers its sign-extended immediate; MOVIH shifts A left by 16 and adds the immediate; MOV, and MOV_F16, copy a token, with
null in the lanes that a vector predicate does not select (R219).

TEQ, TNE, TLT and TLE of two scalars deliver 1 where the relation holds and 0 where it does not, I64 signed and N64 unsigned; a null
operand gives a null result; no flag is raised (R220). -/
def Obligations.MovesAndTests : Prop :=
  ((∀ imm t0 s f, Fires (.movi imm t0) s f → exec (.movi imm t0) s = .next (s.delivers f (.sca (some (BitVec.signExtend 64 imm, false)))))
  ∧ (∀ imm t0 s f v p, Fires (.movih imm t0) s f → f.a = .sca (some (v, p)) →
      exec (.movih imm t0) s = .next (s.delivers f (.sca (some ((v <<< 16) + BitVec.setWidth 64 imm, p)))))
  ∧ (∀ imm t0 s f, Fires (.movih imm t0) s f → f.a = .sca none → exec (.movih imm t0) s = .next (s.delivers f (.sca none)))
  ∧ (∀ t1 t0 p t s f v, Fires (.mov t1 t0 p t) s f → f.a = .sca v → exec (.mov t1 t0 p t) s = .next (s.delivers f (.sca v)))
  ∧ (∀ t1 t0 p t s f l, Fires (.mov t1 t0 p t) s f → f.a = .vec l →
      exec (.mov t1 t0 p t) s = .next (s.delivers f (.vec ((List.range 32).map fun n =>
        if (maskOf p f.p).getD n false then laneAt l n else none))))
  ∧ (∀ t0 st s f v, Fires (.mov_F16 t0 st) s f → f.a = .sca v → exec (.mov_F16 t0 st) s = .next (s.delivers f (.sca v)))
  ∧ (∀ t0 st s f l, Fires (.mov_F16 t0 st) s f → f.a = .vec l → l.length = 32 →
      exec (.mov_F16 t0 st) s = .next (s.delivers f (.vec l))))
  ∧ (∀ (t1 t0 : Target) (p : Pred) (t : LaneType) (s : State) (f : Fired) (v w : Word64) (q r : Bool),
    t.isScalar = true → f.a = .sca (some (v, q)) → f.b = .sca (some (w, r)) →
    let lt (x y : Word64) : Bool := if t = .i64 then x.slt y else x.ult y
    let one (b : Bool) : Token := .sca (some (if b then 1 else 0, q || r))
    (Fires (.teq t1 t0 p t) s f → exec (.teq t1 t0 p t) s = .next (s.delivers f (one (v == w))))
    ∧ (Fires (.tne t1 t0 p t) s f → exec (.tne t1 t0 p t) s = .next (s.delivers f (one (v != w))))
    ∧ (Fires (.tlt t1 t0 p t) s f → exec (.tlt t1 t0 p t) s = .next (s.delivers f (one (lt v w))))
    ∧ (Fires (.tle t1 t0 p t) s f → exec (.tle t1 t0 p t) s = .next (s.delivers f (one (!lt w v)))))
  ∧ (∀ (t1 t0 : Target) (p : Pred) (t : LaneType) (s : State) (f : Fired) (v w : Option (Word64 × Bool)),
    t.isScalar = true → f.a = .sca v → f.b = .sca w → v = none ∨ w = none →
    (Fires (.teq t1 t0 p t) s f → exec (.teq t1 t0 p t) s = .next (s.delivers f (.sca none)))
    ∧ (Fires (.tne t1 t0 p t) s f → exec (.tne t1 t0 p t) s = .next (s.delivers f (.sca none)))
    ∧ (Fires (.tlt t1 t0 p t) s f → exec (.tlt t1 t0 p t) s = .next (s.delivers f (.sca none)))
    ∧ (Fires (.tle t1 t0 p t) s f → exec (.tle t1 t0 p t) s = .next (s.delivers f (.sca none))))

/-- ADDS, SUBS and MULS wrap modulo 2^64 without .sat, and with it clamp to the range of I64 or N64 (R223, R168). A poisoned operand makes
the result poisoned (R373), and no flag is raised.

DIVS rounds the quotient toward zero and with .sat clamps it, REMS keeps the sign of A, and a zero divisor gives all ones and A; MULHS gives bits [127:64] of the
exact product (R223). -/
def Obligations.ScalarArithmetic : Prop :=
  (∀ (t1 t0 : Target) (p : Pred) (t : LaneType) (s : State) (f : Fired) (v w : Word64) (q r : Bool),
    f.a = .sca (some (v, q)) → f.b = .sca (some (w, r)) → t.isScalar = true →
    let sat (e : Int) : Word64 :=
      if t = .i64 then BitVec.ofInt 64 (max (-(2 ^ 63)) (min (2 ^ 63 - 1) e)) else BitVec.ofInt 64 (max 0 (min (2 ^ 64 - 1) e))
    let num (x : Word64) : Int := if t = .i64 then x.toInt else x.toNat
    (Fires (.adds .row t1 t0 p t) s f → exec (.adds .row t1 t0 p t) s = .next (s.delivers f (.sca (some (v + w, q || r)))))
    ∧ (Fires (.subs .row t1 t0 p t) s f → exec (.subs .row t1 t0 p t) s = .next (s.delivers f (.sca (some (v - w, q || r)))))
    ∧ (Fires (.muls .row t1 t0 p t) s f → exec (.muls .row t1 t0 p t) s = .next (s.delivers f (.sca (some (v * w, q || r)))))
    ∧ (Fires (.adds .rne t1 t0 p t) s f →
        exec (.adds .rne t1 t0 p t) s = .next (s.delivers f (.sca (some (sat (num v + num w), q || r)))))
    ∧ (Fires (.subs .rne t1 t0 p t) s f →
        exec (.subs .rne t1 t0 p t) s = .next (s.delivers f (.sca (some (sat (num v - num w), q || r)))))
    ∧ (Fires (.muls .rne t1 t0 p t) s f →
        exec (.muls .rne t1 t0 p t) s = .next (s.delivers f (.sca (some (sat (num v * num w), q || r))))))
  ∧ (∀ (t1 t0 : Target) (p : Pred) (s : State) (f : Fired) (v w : Word64) (q r : Bool),
    f.a = .sca (some (v, q)) → f.b = .sca (some (w, r)) →
    (Fires (.divs .row t1 t0 p .i64) s f → exec (.divs .row t1 t0 p .i64) s
        = .next (s.delivers f (.sca (some (if w = 0 then BitVec.allOnes 64 else BitVec.sdiv v w, q || r)))))
    ∧ (Fires (.divs .row t1 t0 p .n64) s f → exec (.divs .row t1 t0 p .n64) s
        = .next (s.delivers f (.sca (some (if w = 0 then BitVec.allOnes 64 else v / w, q || r)))))
    ∧ (Fires (.divs .rne t1 t0 p .i64) s f → exec (.divs .rne t1 t0 p .i64) s
        = .next (s.delivers f (.sca (some (if w = 0 then BitVec.allOnes 64
            else BitVec.ofInt 64 (min (2 ^ 63 - 1) (v.toInt.tdiv w.toInt)), q || r)))))
    ∧ (Fires (.divs .rne t1 t0 p .n64) s f → exec (.divs .rne t1 t0 p .n64) s
        = .next (s.delivers f (.sca (some (if w = 0 then BitVec.allOnes 64 else v / w, q || r)))))
    ∧ (Fires (.rems t1 t0 p .i64) s f → exec (.rems t1 t0 p .i64) s
        = .next (s.delivers f (.sca (some (if w = 0 then v else BitVec.srem v w, q || r)))))
    ∧ (Fires (.rems t1 t0 p .n64) s f → exec (.rems t1 t0 p .n64) s
        = .next (s.delivers f (.sca (some (if w = 0 then v else v % w, q || r)))))
    ∧ (Fires (.mulhs t1 t0 p .i64) s f → exec (.mulhs t1 t0 p .i64) s
        = .next (s.delivers f (.sca (some ((BitVec.signExtend 128 v * BitVec.signExtend 128 w).extractLsb' 64 64, q || r)))))
    ∧ (Fires (.mulhs t1 t0 p .n64) s f → exec (.mulhs t1 t0 p .n64) s
        = .next (s.delivers f (.sca (some ((BitVec.setWidth 128 v * BitVec.setWidth 128 w).extractLsb' 64 64, q || r))))))

/-- ANDS, ORS, XORS, SHLS, wrapped or with .sat clamped, SHRS, ADDIS, ANDIS and SHIS work on 64-bit words; a shift count is B<5:0>, and SHRS and a negative
SHIS shift in the sign for I64 and zeros for N64 (R223).

CLZS, CTZS and POPCS count the leading zeros, trailing zeros and ones of A, 64 zeros for A = 0; MINS and MAXS are signed or unsigned by T
(R224). -/
def Obligations.ScalarBits : Prop :=
  (∀ (t1 t0 : Target) (p : Pred) (t : LaneType) (s : State) (f : Fired) (v : Word64) (q : Bool),
    f.a = .sca (some (v, q)) → t.isScalar = true →
    let down (x : Word64) (n : Nat) : Word64 := if t = .i64 then x.sshiftRight n else x >>> n
    let sat (e : Int) : Word64 :=
      if t = .i64 then BitVec.ofInt 64 (max (-(2 ^ 63)) (min (2 ^ 63 - 1) e)) else BitVec.ofInt 64 (max 0 (min (2 ^ 64 - 1) e))
    let num (x : Word64) : Int := if t = .i64 then x.toInt else x.toNat
    (∀ w r, f.b = .sca (some (w, r)) →
      (Fires (.ands t1 t0 p t) s f → exec (.ands t1 t0 p t) s = .next (s.delivers f (.sca (some (v &&& w, q || r)))))
      ∧ (Fires (.ors t1 t0 p t) s f → exec (.ors t1 t0 p t) s = .next (s.delivers f (.sca (some (v ||| w, q || r)))))
      ∧ (Fires (.xors t1 t0 p t) s f → exec (.xors t1 t0 p t) s = .next (s.delivers f (.sca (some (v ^^^ w, q || r)))))
      ∧ (Fires (.shls .row t1 t0 p t) s f →
          exec (.shls .row t1 t0 p t) s = .next (s.delivers f (.sca (some (v <<< (w.toNat % 64), q || r)))))
      ∧ (Fires (.shls .rne t1 t0 p t) s f →
          exec (.shls .rne t1 t0 p t) s = .next (s.delivers f (.sca (some (sat (num v * 2 ^ (w.toNat % 64)), q || r)))))
      ∧ (Fires (.shrs t1 t0 p t) s f →
          exec (.shrs t1 t0 p t) s = .next (s.delivers f (.sca (some (down v (w.toNat % 64), q || r))))))
    ∧ ∀ imm : BitVec 10,
      (Fires (.addis imm t0 p t) s f →
        exec (.addis imm t0 p t) s = .next (s.delivers f (.sca (some (v + BitVec.signExtend 64 imm, q)))))
      ∧ (Fires (.andis imm t0 p t) s f →
        exec (.andis imm t0 p t) s = .next (s.delivers f (.sca (some (v &&& BitVec.signExtend 64 imm, q)))))
      ∧ (Fires (.shis imm t0 p t) s f → -63 ≤ imm.toInt → imm.toInt ≤ 63 →
        exec (.shis imm t0 p t) s = .next (s.delivers f (.sca (some
          (if 0 ≤ imm.toInt then v <<< imm.toInt.toNat else down v (-imm.toInt).toNat, q))))))
  ∧ (∀ (t1 t0 : Target) (p : Pred) (s : State) (f : Fired) (v : Word64) (q : Bool), f.a = .sca (some (v, q)) →
    (Fires (.clzs t1 t0 p) s f → exec (.clzs t1 t0 p) s = .next (s.delivers f (.sca (some (v.clz, q)))))
    ∧ (Fires (.ctzs t1 t0 p) s f → exec (.ctzs t1 t0 p) s = .next (s.delivers f (.sca (some (v.ctz, q)))))
    ∧ (Fires (.popcs t1 t0 p) s f → exec (.popcs t1 t0 p) s = .next (s.delivers f (.sca (some (v.cpop, q)))))
    ∧ ∀ w r, f.b = .sca (some (w, r)) →
      (Fires (.mins t1 t0 p false) s f →
        exec (.mins t1 t0 p false) s = .next (s.delivers f (.sca (some (if v.sle w then v else w, q || r)))))
      ∧ (Fires (.mins t1 t0 p true) s f →
        exec (.mins t1 t0 p true) s = .next (s.delivers f (.sca (some (if v ≤ w then v else w, q || r)))))
      ∧ (Fires (.maxs t1 t0 p false) s f →
        exec (.maxs t1 t0 p false) s = .next (s.delivers f (.sca (some (if v.sle w then w else v, q || r)))))
      ∧ (Fires (.maxs t1 t0 p true) s f →
        exec (.maxs t1 t0 p true) s = .next (s.delivers f (.sca (some (if v ≤ w then w else v, q || r))))))

/-- TEQ, TNE, TLT and TLE deliver the truth of their relation, SEL the chosen operand, PAND, POR and PNOT the truth of their lanes or
scalars, ANYL and ALLL that of some or every lane (R220 to R222), each with its 16-bit form (R201). -/
def Obligations.TestsAndSelection : Prop :=
  (∀ t1 t0 p t s f, Fires (.teq t1 t0 p t) s f →
      let r := test .eq t (opnds s f)
      exec (.teq t1 t0 p t) s = .next (s.delivers f r.out r.flags))
  ∧ (∀ t0 st s f, Fires (.teq_F16 t0 st) s f →
      let r := test .eq st.lane (opnds s f)
      exec (.teq_F16 t0 st) s = .next (s.delivers f r.out r.flags))
  ∧ (∀ t1 t0 p t s f, Fires (.tne t1 t0 p t) s f →
      let r := test .ne t (opnds s f)
      exec (.tne t1 t0 p t) s = .next (s.delivers f r.out r.flags))
  ∧ (∀ t1 t0 p t s f, Fires (.tlt t1 t0 p t) s f →
      let r := test .lt t (opnds s f)
      exec (.tlt t1 t0 p t) s = .next (s.delivers f r.out r.flags))
  ∧ (∀ t0 st s f, Fires (.tlt_F16 t0 st) s f →
      let r := test .lt st.lane (opnds s f)
      exec (.tlt_F16 t0 st) s = .next (s.delivers f r.out r.flags))
  ∧ (∀ t1 t0 p t s f, Fires (.tle t1 t0 p t) s f →
      let r := test .le t (opnds s f)
      exec (.tle t1 t0 p t) s = .next (s.delivers f r.out r.flags))
  ∧ (∀ t1 t0 p t s f, Fires (.sel t1 t0 p t) s f →
      let r := select t (opnds s f)
      exec (.sel t1 t0 p t) s = .next (s.delivers f r.out r.flags))
  ∧ (∀ t0 st s f, Fires (.sel_F16 t0 st) s f →
      let r := select st.lane (opnds s f)
      exec (.sel_F16 t0 st) s = .next (s.delivers f r.out r.flags))
  ∧ (∀ t1 t0 p s f, Fires (.pand t1 t0 p) s f →
      let r := truth [f.a, f.b] (fun v => v.all (· != 0)) (opnds s f)
      exec (.pand t1 t0 p) s = .next (s.delivers f r.out r.flags))
  ∧ (∀ t1 t0 p s f, Fires (.por t1 t0 p) s f →
      let r := truth [f.a, f.b] (fun v => v.any (· != 0)) (opnds s f)
      exec (.por t1 t0 p) s = .next (s.delivers f r.out r.flags))
  ∧ (∀ t1 t0 p s f, Fires (.pnot t1 t0 p) s f →
      let r := truth [f.a] (fun v => v.all (· == 0)) (opnds s f)
      exec (.pnot t1 t0 p) s = .next (s.delivers f r.out r.flags))
  ∧ (∀ t1 t0 p s f, Fires (.anyl t1 t0 p) s f →
      let r := lanesTruth f.a fun l => l.any (· != 0)
      exec (.anyl t1 t0 p) s = .next (s.delivers f r.out r.flags))
  ∧ (∀ t1 t0 p s f, Fires (.alll t1 t0 p) s f →
      let r := lanesTruth f.a fun l => l.all (· != 0)
      exec (.alll t1 t0 p) s = .next (s.delivers f r.out r.flags))

/-- The element-wise arithmetic of R232 delivers the exact result of each element, rounded, wrapped or clamped once (R229, R233, R234), each with
its 16-bit form (R201).

The lane words' AND, OR and XOR, the shifts and VADDI (R235), each with its 16-bit form (R201).

The FP32 results of VADD, VSUB, VMUL and VFMA with X = 0b01, where they are finite, are as near to the exact result as any finite FP32 value is
(R165, R232). Said of each lane with finite operands, its values read from the encoding of R155 and R156 (`fp32Units`), and of no result's choice at a tie. -/
def Obligations.VectorArithmetic : Prop :=
  ((∀ x t1 t0 p t s f, Fires (.vadd x t1 t0 p t) s f →
      let r := arith .add t x (opnds s f)
      exec (.vadd x t1 t0 p t) s = .next (s.delivers f r.out r.flags))
  ∧ (∀ t0 st s f, Fires (.vadd_F16 t0 st) s f →
      let r := arith .add st.lane .row (opnds s f)
      exec (.vadd_F16 t0 st) s = .next (s.delivers f r.out r.flags))
  ∧ (∀ x t1 t0 p t s f, Fires (.vsub x t1 t0 p t) s f →
      let r := arith .sub t x (opnds s f)
      exec (.vsub x t1 t0 p t) s = .next (s.delivers f r.out r.flags))
  ∧ (∀ t0 st s f, Fires (.vsub_F16 t0 st) s f →
      let r := arith .sub st.lane .row (opnds s f)
      exec (.vsub_F16 t0 st) s = .next (s.delivers f r.out r.flags))
  ∧ (∀ x t1 t0 p t s f, Fires (.vmul x t1 t0 p t) s f →
      let r := arith .mul t x (opnds s f)
      exec (.vmul x t1 t0 p t) s = .next (s.delivers f r.out r.flags))
  ∧ (∀ t0 st s f, Fires (.vmul_F16 t0 st) s f →
      let r := arith .mul st.lane .row (opnds s f)
      exec (.vmul_F16 t0 st) s = .next (s.delivers f r.out r.flags))
  ∧ (∀ t1 t0 p t s f, Fires (.vmulh t1 t0 p t) s f →
      let r := intLanes t [f.a, f.b] (opnds s f) fun v => wrap t.width ((v.getD 0 0 * v.getD 1 0).fdiv (2 ^ t.width))
      exec (.vmulh t1 t0 p t) s = .next (s.delivers f r.out r.flags))
  ∧ (∀ x t1 t0 p t s f, Fires (.vfma x t1 t0 p t) s f →
      let r := fmaLanes t x (opnds s f)
      exec (.vfma x t1 t0 p t) s = .next (s.delivers f r.out r.flags))
  ∧ (∀ t0 st s f, Fires (.vfma_F16 t0 st) s f →
      let r := fmaLanes st.lane .row (opnds s f)
      exec (.vfma_F16 t0 st) s = .next (s.delivers f r.out r.flags))
  ∧ (∀ t1 t0 p t s f, Fires (.vmin t1 t0 p t) s f →
      let r := minMax false t (opnds s f)
      exec (.vmin t1 t0 p t) s = .next (s.delivers f r.out r.flags))
  ∧ (∀ t0 st s f, Fires (.vmin_F16 t0 st) s f →
      let r := minMax false st.lane (opnds s f)
      exec (.vmin_F16 t0 st) s = .next (s.delivers f r.out r.flags))
  ∧ (∀ t1 t0 p t s f, Fires (.vmax t1 t0 p t) s f →
      let r := minMax true t (opnds s f)
      exec (.vmax t1 t0 p t) s = .next (s.delivers f r.out r.flags))
  ∧ (∀ t0 st s f, Fires (.vmax_F16 t0 st) s f →
      let r := minMax true st.lane (opnds s f)
      exec (.vmax_F16 t0 st) s = .next (s.delivers f r.out r.flags)))
  ∧ ((∀ t1 t0 p t s f, Fires (.vand t1 t0 p t) s f →
      let r := laneWise f.mask [f.a, f.b] fun w => (w.getD 0 0 &&& w.getD 1 0, {})
      exec (.vand t1 t0 p t) s = .next (s.delivers f r.out r.flags))
  ∧ (∀ t0 st s f, Fires (.vand_F16 t0 st) s f →
      let r := laneWise f.mask [f.a, f.b] fun w => (w.getD 0 0 &&& w.getD 1 0, {})
      exec (.vand_F16 t0 st) s = .next (s.delivers f r.out r.flags))
  ∧ (∀ t1 t0 p t s f, Fires (.vor t1 t0 p t) s f →
      let r := laneWise f.mask [f.a, f.b] fun w => (w.getD 0 0 ||| w.getD 1 0, {})
      exec (.vor t1 t0 p t) s = .next (s.delivers f r.out r.flags))
  ∧ (∀ t0 st s f, Fires (.vor_F16 t0 st) s f →
      let r := laneWise f.mask [f.a, f.b] fun w => (w.getD 0 0 ||| w.getD 1 0, {})
      exec (.vor_F16 t0 st) s = .next (s.delivers f r.out r.flags))
  ∧ (∀ t1 t0 p t s f, Fires (.vxor t1 t0 p t) s f →
      let r := laneWise f.mask [f.a, f.b] fun w => (w.getD 0 0 ^^^ w.getD 1 0, {})
      exec (.vxor t1 t0 p t) s = .next (s.delivers f r.out r.flags))
  ∧ (∀ t0 st s f, Fires (.vxor_F16 t0 st) s f →
      let r := laneWise f.mask [f.a, f.b] fun w => (w.getD 0 0 ^^^ w.getD 1 0, {})
      exec (.vxor_F16 t0 st) s = .next (s.delivers f r.out r.flags))
  ∧ (∀ x t1 t0 p t s f, Fires (.vshl x t1 t0 p t) s f →
      let r := shiftLeft t (x == .rne) (opnds s f)
      exec (.vshl x t1 t0 p t) s = .next (s.delivers f r.out r.flags))
  ∧ (∀ t0 st s f, Fires (.vshl_F16 t0 st) s f →
      let r := shiftLeft st.lane false (opnds s f)
      exec (.vshl_F16 t0 st) s = .next (s.delivers f r.out r.flags))
  ∧ (∀ t1 t0 p t s f, Fires (.vshr t1 t0 p t) s f →
      let r := shiftRight t (opnds s f)
      exec (.vshr t1 t0 p t) s = .next (s.delivers f r.out r.flags))
  ∧ (∀ t0 st s f, Fires (.vshr_F16 t0 st) s f →
      let r := shiftRight st.lane (opnds s f)
      exec (.vshr_F16 t0 st) s = .next (s.delivers f r.out r.flags))
  ∧ (∀ imm t0 p t s f, Fires (.vaddi imm t0 p t) s f →
      let r := intLanes t [f.a] (opnds s f) fun v => wrap t.width (v.getD 0 0 + imm.toInt)
      exec (.vaddi imm t0 p t) s = .next (s.delivers f r.out r.flags)))
  ∧ (∀ (t1 t0 : Target) (p : Pred) (s : State) (f : Fired) (n : Nat) (a b c : Lane), n < 32 →
    laneAt f.a.lanes n = a → laneAt f.b.lanes n = b → laneAt f.c.lanes n = c →
    let word (l : Lane) : Nat := (l.getD (0, false)).1.toNat
    let gives (i : Instr) (ops : List Lane) (exact : Int) : Prop := Fires i s f → (∀ l ∈ ops, fp32Finite (word l) = true) →
      ∃ out fl, exec i s = .next (s.delivers f out fl) ∧ ∀ z q, laneAt out.lanes n = some (z, q) → fp32Finite z.toNat = true →
        ∀ w, fp32Finite w = true → |fp32Units z.toNat * 2 ^ 149 - exact| ≤ |fp32Units w * 2 ^ 149 - exact|
    let va := fp32Units (word a)
    let vb := fp32Units (word b)
    let vc := fp32Units (word c)
    gives (.vadd .rne t1 t0 p .fp32) [a, b] ((va + vb) * 2 ^ 149)
    ∧ gives (.vsub .rne t1 t0 p .fp32) [a, b] ((va - vb) * 2 ^ 149)
    ∧ gives (.vmul .rne t1 t0 p .fp32) [a, b] (va * vb)
    ∧ gives (.vfma .rne t1 t0 p .fp32) [a, b, c] (va * vb + vc * 2 ^ 149))

/-- VDOT sums its products and C exactly and rounds once (R236); VDIV and VSQRT are correctly rounded, and the four special functions within the
bounds of R178, whose bits are the model's free choice (log 20) (R237).

VCVT, VCVTS, VPACK, VUNPK, VRND and VRAND (R238 to R242).

VBCE, VSHUF, VRED, VSCAN, VINS, VEXT and VCMPR (R243 to R248).

A finite VDIV with X = 0b01 is as near to the exact quotient as any finite FP32 value is (R177, R237), its values read from the encoding of R155
and R156 (`fp32Units`). -/
def Obligations.VectorFunctions : Prop :=
  ((∀ x t1 t0 p t s f, Fires (.vdot x t1 t0 p t) s f →
      let r := dot t x (opnds s f)
      exec (.vdot x t1 t0 p t) s = .next (s.delivers f r.out r.flags))
  ∧ (∀ t0 st s f, Fires (.vdot_F16 t0 st) s f →
      let r := dot st.lane .row (opnds s f)
      exec (.vdot_F16 t0 st) s = .next (s.delivers f r.out r.flags))
  ∧ (∀ x t1 t0 p s f, Fires (.vdiv x t1 t0 p) s f →
      let r := fpLanes .fp32 x [f.a, f.b] (opnds s f) fun _ v => (v.getD 0 (.nan false)).div (v.getD 1 (.nan false))
      exec (.vdiv x t1 t0 p) s = .next (s.delivers f r.out r.flags))
  ∧ (∀ x t1 t0 p s f, Fires (.vsqrt x t1 t0 p) s f →
      let r := fpLanes .fp32 x [f.a] (opnds s f) fun _ v => (v.getD 0 (.nan false)).sqrt
      exec (.vsqrt x t1 t0 p) s = .next (s.delivers f r.out r.flags))
  ∧ (∀ t1 t0 p s f, Fires (.vrcp t1 t0 p) s f →
      let r := laneWise f.mask [f.a] fun w => let r := specialFn 0 (w.getD 0 0).toNat; (BitVec.ofNat 32 r.1, r.2)
      exec (.vrcp t1 t0 p) s = .next (s.delivers f r.out r.flags))
  ∧ (∀ t1 t0 p s f, Fires (.vrsq t1 t0 p) s f →
      let r := laneWise f.mask [f.a] fun w => let r := specialFn 1 (w.getD 0 0).toNat; (BitVec.ofNat 32 r.1, r.2)
      exec (.vrsq t1 t0 p) s = .next (s.delivers f r.out r.flags))
  ∧ (∀ t1 t0 p s f, Fires (.vexp2 t1 t0 p) s f →
      let r := laneWise f.mask [f.a] fun w => let r := specialFn 2 (w.getD 0 0).toNat; (BitVec.ofNat 32 r.1, r.2)
      exec (.vexp2 t1 t0 p) s = .next (s.delivers f r.out r.flags))
  ∧ (∀ t1 t0 p s f, Fires (.vlog2 t1 t0 p) s f →
      let r := laneWise f.mask [f.a] fun w => let r := specialFn 3 (w.getD 0 0).toNat; (BitVec.ofNat 32 r.1, r.2)
      exec (.vlog2 t1 t0 p) s = .next (s.delivers f r.out r.flags)))
  ∧ ((∀ mode src t0 p t s f, Fires (.vcvt mode src t0 p t) s f →
      let r := laneWise f.mask [f.a] fun w => elementwise t w fun e => convert t src mode.toNat f.slot.inst.rm (e.getD 0 0)
      exec (.vcvt mode src t0 p t) s = .next (s.delivers f r.out r.flags))
  ∧ (∀ x t1 t0 p t s f, Fires (.vcvts x t1 t0 p t) s f →
      let r := packInto t (opnds s f) (scaledPart t (opnds s f)) (scaledNarrow t x (opnds s f))
      exec (.vcvts x t1 t0 p t) s = .next (s.delivers f r.out r.flags))
  ∧ (∀ x t1 t0 p t s f, Fires (.vpack x t1 t0 p t) s f →
      let r := packInto t (opnds s f) (f.b.num % 8 % t.elems) (narrow t x (opnds s f))
      exec (.vpack x t1 t0 p t) s = .next (s.delivers f r.out r.flags))
  ∧ (∀ t1 t0 p t s f, Fires (.vunpk t1 t0 p t) s f →
      let r := unpack t (opnds s f)
      exec (.vunpk t1 t0 p t) s = .next (s.delivers f r.out r.flags))
  ∧ (∀ imm t0 p t s f, Fires (.vrnd imm t0 p t) s f →
      let r := laneWise f.mask [f.a] fun w => elementwise t w fun e => roundIntegral t imm.toNat f.slot.inst.rm (e.getD 0 0)
      exec (.vrnd imm t0 p t) s = .next (s.delivers f r.out r.flags))
  ∧ (∀ t1 t0 p t s f, Fires (.vrand t1 t0 p t) s f →
      let r := random t (opnds s f)
      exec (.vrand t1 t0 p t) s = .next (s.delivers f r.out r.flags)))
  ∧ ((∀ imm t0 p t s f, Fires (.vbce imm t0 p t) s f →
      let r := broadcast t imm.toNat (opnds s f)
      exec (.vbce imm t0 p t) s = .next (s.delivers f r.out r.flags))
  ∧ (∀ t1 t0 p t s f, Fires (.vshuf t1 t0 p t) s f →
      let r := shuffle t (opnds s f)
      exec (.vshuf t1 t0 p t) s = .next (s.delivers f r.out r.flags))
  ∧ (∀ imm t0 p t s f, Fires (.vred imm t0 p t) s f →
      let r := reduce t imm.toNat (opnds s f)
      exec (.vred imm t0 p t) s = .next (s.delivers f r.out r.flags))
  ∧ (∀ imm t0 p t s f, Fires (.vscan imm t0 p t) s f →
      let r := scan t imm.toNat (opnds s f)
      exec (.vscan imm t0 p t) s = .next (s.delivers f r.out r.flags))
  ∧ (∀ t1 t0 p t s f, Fires (.vins t1 t0 p t) s f →
      let r := insertElem t (opnds s f)
      exec (.vins t1 t0 p t) s = .next (s.delivers f r.out r.flags))
  ∧ (∀ t1 t0 p t s f, Fires (.vext t1 t0 p t) s f →
      let r := extractElem t (opnds s f)
      exec (.vext t1 t0 p t) s = .next (s.delivers f r.out r.flags))
  ∧ (∀ t1 t0 p u s f, Fires (.vcmpr t1 t0 p u) s f →
      let r := compress u (opnds s f)
      exec (.vcmpr t1 t0 p u) s = .next (s.delivers f r.out r.flags)))
  ∧ (∀ (t1 t0 : Target) (p : Pred) (s : State) (f : Fired) (n : Nat) (a b : Word32) (q r : Bool), n < 32 → Fires (.vdiv .rne t1 t0 p) s f →
    laneAt f.a.lanes n = some (a, q) → laneAt f.b.lanes n = some (b, r) → fp32Finite a.toNat = true → fp32Finite b.toNat = true →
    fp32Units b.toNat ≠ 0 →
    ∃ out fl, exec (.vdiv .rne t1 t0 p) s = .next (s.delivers f out fl) ∧ ∀ z k, laneAt out.lanes n = some (z, k) → fp32Finite z.toNat = true →
      ∀ w, fp32Finite w = true → |fp32Units z.toNat * fp32Units b.toNat - fp32Units a.toNat * 2 ^ 149|
        ≤ |fp32Units w * fp32Units b.toNat - fp32Units a.toNat * 2 ^ 149|)

/-- R201: an F16 instruction has every effect, timing and check of the F32R instruction with X and P 0b00, both targets its one target, and the
type that its short type stands for. -/
def Obligations.ShortFormsAreLong : Prop :=
  ∀ (t : Target) (st : ShortType) (s : State),
    exec (.vadd_F16 t st) s = exec (.vadd .row t t .always st.lane) s
    ∧ exec (.vsub_F16 t st) s = exec (.vsub .row t t .always st.lane) s
    ∧ exec (.vmul_F16 t st) s = exec (.vmul .row t t .always st.lane) s
    ∧ exec (.vfma_F16 t st) s = exec (.vfma .row t t .always st.lane) s
    ∧ exec (.vmin_F16 t st) s = exec (.vmin t t .always st.lane) s
    ∧ exec (.vmax_F16 t st) s = exec (.vmax t t .always st.lane) s
    ∧ exec (.vand_F16 t st) s = exec (.vand t t .always st.lane) s
    ∧ exec (.vor_F16 t st) s = exec (.vor t t .always st.lane) s
    ∧ exec (.vxor_F16 t st) s = exec (.vxor t t .always st.lane) s
    ∧ exec (.vshl_F16 t st) s = exec (.vshl .row t t .always st.lane) s
    ∧ exec (.vshr_F16 t st) s = exec (.vshr t t .always st.lane) s
    ∧ exec (.mov_F16 t st) s = exec (.mov t t .always st.lane) s
    ∧ exec (.tlt_F16 t st) s = exec (.tlt t t .always st.lane) s
    ∧ exec (.teq_F16 t st) s = exec (.teq t t .always st.lane) s
    ∧ exec (.sel_F16 t st) s = exec (.sel t t .always st.lane) s
    ∧ exec (.vdot_F16 t st) s = exec (.vdot .row t t .always st.lane) s

/-- R233: for integer types VADD, VSUB, VMUL and VFMA keep the low bits of the exact result of each element, and with X = 0b01 clamp it to the
range of the type; VMULH gives the high half of the exact product, which cannot overflow. They raise no flag (R168). Said of every element of
every lane of the result that is not null. -/
def Obligations.IntegerLanes : Prop :=
  ∀ (t : LaneType) (x : XMode) (t1 t0 : Target) (p : Pred) (s : State) (f : Fired), t.isInt = true → t.acceptsX x = true →
    let v (k : Token) (n j : Nat) : Int := laneInt t (elemOf t ((laneAt k.lanes n).getD (0, false)).1 j)
    let a := v f.a
    let b := v f.b
    let c := v f.c
    let gives (i : Instr) (good : Nat → Nat → Nat → Prop) : Prop := Fires i s f → ∃ out, exec i s = .next (s.delivers f out)
      ∧ ∀ n j z q, n < 32 → j < t.elems → laneAt out.lanes n = some (z, q) → good n j (elemOf t z j)
    let rule (exact : Nat → Nat → Int) (n j e : Nat) : Prop :=
      if x = .rne then laneInt t e = max (intMin t) (min (intMax t) (exact n j)) else (e : Int) = exact n j % 2 ^ t.width
    gives (.vadd x t1 t0 p t) (rule fun n j => a n j + b n j)
    ∧ gives (.vsub x t1 t0 p t) (rule fun n j => a n j - b n j)
    ∧ gives (.vmul x t1 t0 p t) (rule fun n j => a n j * b n j)
    ∧ gives (.vfma x t1 t0 p t) (rule fun n j => a n j * b n j + c n j)
    ∧ gives (.vmulh t1 t0 p t) (fun n j e => laneInt t e = (a n j * b n j).fdiv (2 ^ t.width)
        ∧ intMin t ≤ (a n j * b n j).fdiv (2 ^ t.width) ∧ (a n j * b n j).fdiv (2 ^ t.width) ≤ intMax t)

/-- R244: element e of VSHUF is A's element k, where k is B's element e modulo 32P; a lane is null where B's lane or a lane of A that it takes
an element from is null.

R243: VBCE sets every element of every selected lane to A's element e; where A's lane of e is null, every lane is null.

A lane of an element-wise instruction is null where the predicate does not select it or an operand lane is null, and only there
(R227); it is poisoned where an operand lane is (R373). Said of the operation that R232 to R238 and R241 share.

R164: a scalar token gives its bits [31:0] to every lane, and a null scalar makes every lane null. -/
def Obligations.ElementMoves : Prop :=
  (∀ (t : LaneType) (o : Opnds) (n : Nat), t.isLane = true → t ≠ .e2m1x8 → n < 32 → o.mask.getD n false = true →
    let src (b : Word32) (j : Nat) : Nat := elemOf t b j % (32 * t.elems)
    (laneAt (shuffle t o).out.lanes n = none
      ↔ (∀ b q, laneAt o.b.lanes n = some (b, q) → ∃ j, j < t.elems ∧ laneAt o.a.lanes (src b j / t.elems) = none))
    ∧ ∀ z r b q, laneAt (shuffle t o).out.lanes n = some (z, r) → laneAt o.b.lanes n = some (b, q) →
        ∀ j, j < t.elems → ∃ a p, laneAt o.a.lanes (src b j / t.elems) = some (a, p)
          ∧ elemOf t z j = elemOf t a (src b j % t.elems))
  ∧ (∀ (t : LaneType) (e : Nat) (o : Opnds) (n : Nat), t.isLane = true → e < 32 * t.elems → n < 32 →
    (laneAt o.a.lanes (e / t.elems) = none → laneAt (broadcast t e o).out.lanes n = none)
    ∧ ∀ a p, laneAt o.a.lanes (e / t.elems) = some (a, p) → o.mask.getD n false = true →
        ∃ z, laneAt (broadcast t e o).out.lanes n = some (z, p) ∧ ∀ j, j < t.elems → elemOf t z j = elemOf t a (e % t.elems))
  ∧ (∀ (mask : List Bool) (toks : List Token) (g : List Word32 → Word32 × Flags) (n : Nat), n < 32 →
    (laneAt (laneWise mask toks g).out.lanes n = none
      ↔ mask.getD n false = false ∨ ∃ k ∈ toks, laneAt k.lanes n = none)
    ∧ ∀ w q, laneAt (laneWise mask toks g).out.lanes n = some (w, q) →
        (q = true ↔ ∃ k ∈ toks, ∃ v, laneAt k.lanes n = some (v, true)))
  ∧ ((∀ (v : Word64) (p : Bool), (Token.sca (some (v, p))).lanes = List.replicate 32 (some (BitVec.setWidth 32 v, p)))
  ∧ (Token.sca none).lanes = List.replicate 32 none)

/-! ### Exits -/

/-- An exit that fires with usable operands, its target a valid block (R204) where R206 to R215 ask for one, and no exit taken before it,
is taken: the instance holds its kind, target and operands for the boundary, and nothing else changes. LOOP, ENDL and BRKL make their
checks when the commit conditions hold (R204). A FORKR of N ≠ 0 starts its search (R216).

Where an exit is not taken: a second taken exit raises ExitCount (0x0107), before any check of its own (log 132), an invalid target BranchTarget
(0x0201), a SPLICE in a row that is no task SpliceNoTask (0x0208), each in the commit class (R193, R204, R217, R337); a null operand takes no exit (R192). -/
def Obligations.Exits : Prop :=
  (∀ (s : State) (f : Fired) (p : Pred) (off : BitVec 18) (n : BitVec 15), f.slot.inst.exit = none →
    let dest : Nat := exitTarget f.slot.inst.pc off
    let ok : Prop := validBlock dest = true
    (Fires (.br off p) s f → ok → exec (.br off p) s = .next (s.takesExit f .br dest))
    ∧ (Fires (.brx p) s f → usable [f.a] [f.a] → f.a.high = 0 → validBlock f.a.num = true →
        exec (.brx p) s = .next (s.takesExit f .brx f.a.num))
    ∧ (Fires (.call off p) s f → ok → f.slot.inst.writesS7 = false → exec (.call off p) s = .next (s.takesExit f .call dest))
    ∧ (Fires (.loop off p) s f → usable [f.a] [f.a] → exec (.loop off p) s = .next (s.takesExit f .loop dest))
    ∧ (Fires (.endl p) s f → exec (.endl p) s = .next (s.takesExit f .endl 0))
    ∧ (Fires (.brkl off p) s f → exec (.brkl off p) s = .next (s.takesExit f .brkl dest))
    ∧ (Fires (.waitb off p) s f → ok → usable [f.a, f.b] [f.a, f.b] → f.a.num < 2 ^ 21 → f.a.num % 32 = 0 →
        exec (.waitb off p) s = .next (s.takesExit f .waitb dest))
    ∧ (Fires (.waite off p) s f → ok → usable [f.a] [f.a] → f.a.num < 64 → exec (.waite off p) s = .next (s.takesExit f .waite dest))
    ∧ (Fires (.waitqr off p) s f → ok → usable [f.a] [f.a] → s.isGangQueue f.core f.a.num = true →
        exec (.waitqr off p) s = .next (s.takesExit f .waitqr dest))
    ∧ (Fires (.waitqd off p) s f → ok → usable [f.a] [f.a] → s.isGangQueue f.core f.a.num = true →
        exec (.waitqd off p) s = .next (s.takesExit f .waitqd dest))
    ∧ (Fires (.yield off p) s f → ok → exec (.yield off p) s = .next (s.takesExit f .yield dest))
    ∧ (Fires (.halt off p) s f → ok → exec (.halt off p) s = .next (s.takesExit f .halt dest))
    ∧ (Fires (.trap n p) s f → exec (.trap n p) s = .next (s.takesExit f (.trap n.toNat) f.slot.inst.pc))
    ∧ (Fires (.efence off p) s f → ok → exec (.efence off p) s = .next (s.takesExit f .efence dest))
    ∧ (Fires (.splice p) s f → s.link f.core f.rid ≠ 0 → exec (.splice p) s = .next (s.takesExit f .splice f.slot.inst.pc))
    ∧ (Fires (.forkr off p) s f → ok → usable [f.a, f.b, f.c] [f.a, f.b, f.c] → f.c.high = 0 → validBlock f.c.num = true →
        (f.a.num = 0 → exec (.forkr off p) s = .next (s.takesExit f .forkr dest))
        ∧ (f.a.num ≠ 0 → f.b.num ≠ 0 → f.slot.inst.failed = none →
            exec (.forkr off p) s = .next ((s.takesExit f .forkr dest).withInst f.core f.rid fun x => { x with
              waits := x.waits.filter (fun v => v.1 != f.idx)
                ++ [(f.idx, .search (min ((f.a.num + f.b.num - 1) / f.b.num) 256) [] s.cycle)] }))))
  ∧ (∀ (s : State) (f : Fired) (p : Pred) (off : BitVec 18), f.slot.inst.failed = none →
    let fails (o : Host.Outcome State Fault Refusal) (code : Nat) : Prop := ∃ t, o = .next t ∧ t.mem = s.mem ∧
      (t.slot? f.core f.rid).map (fun x => (x.inst.failed, x.inst.exit))
        = some (some { code := code, tvalid := true, tidx := f.idx, twe := false, cycle := s.cycle, commit := true }, f.slot.inst.exit)
    let first : Prop := f.slot.inst.exit = none
    (Fires (.br off p) s f → first → validBlock (exitTarget f.slot.inst.pc off) = false → fails (exec (.br off p) s) 0x0201)
    ∧ (Fires (.brx p) s f → first → usable [f.a] [f.a] → f.a.high ≠ 0 ∨ validBlock f.a.num = false → fails (exec (.brx p) s) 0x0201)
    ∧ (Fires (.br off p) s f → ¬ first → fails (exec (.br off p) s) 0x0107)
    ∧ (Fires (.splice p) s f → first → s.link f.core f.rid = 0 → fails (exec (.splice p) s) 0x0208)
    ∧ (Fires (.brx p) s f → f.a = .sca none → exec (.brx p) s = .next (s.noted f)))

/-! ### Memory instructions -/

/-- An LSID-carrying instruction whose address slot A is null delivers its null result and does nothing else (R273), and one whose
slot A is poisoned raises Poison, 0x0804 (R374). It is said of every encoded instruction with an LSID and a slot A. A load or BPH delivers it
in its order, once every LSID-carrying instruction of lower LSID has fired (R195, R274, R284), and waits for that else. -/
def Obligations.NullAndPoisonedAddress : Prop :=
  ∀ (i : Instr) (n w : Nat) (s : State) (f : Fired), encode i = some (n, w) → (shape i).lsid.isSome = true → (shape i).a.isSome = true →
    Fires i s f →
    let loads : Prop := match i with | .ldv .. => True | .lds .. => True | .ldgv .. => True | .ldvs .. => True | .bph .. => True | _ => False
    (f.a = .sca none → f.b.poisoned = false → f.c.poisoned = false →
      (¬ loads → exec i s = .next (s.delivers f (nullResult f.sh f.a f.b)))
      ∧ (loads → f.slot.inst.lowerFired f.lsid = true → exec i s = .next (s.after f fun x => { x with
          waits := x.waits.filter (fun v => v.1 != f.idx), toks := x.toks ++ f.tokens (nullResult f.sh f.a f.b) (s.cycle + f.sh.lat - 1) }))
      ∧ (loads → f.slot.inst.lowerFired f.lsid = false → exec i s = .next (s.after f fun x => { x with
          waits := x.waits.filter (fun v => v.1 != f.idx) ++ [(f.idx, .load i f.a f.b f.pred)] })))
    ∧ (f.a.poisoned = true → f.slot.inst.failed = none → ∃ t, exec i s = .next t ∧ t.mem = s.mem ∧
        (t.slot? f.core f.rid).map (fun x => (x.inst.failed, x.inst.effects, x.inst.toks))
          = some (some { code := 0x0804, tvalid := true, tidx := f.idx, twe := false, cycle := s.cycle, commit := false },
                  f.slot.inst.effects, f.slot.inst.toks))

/-- LDV, LDS, LDGV and LDVS that pass the checks of R274 start their load once every LSID-carrying instruction of lower LSID has fired
(R195), and wait for that else.

What a load delivers (R274, R195, R68, R109): the bytes that it sees at its accesses' addresses, in its token, by the end of its
latency; memory and everything else but the instance is unchanged. Said where no operand is null and no byte lies in a guard granule (R377) or in the
block-state area of a row in a REP block (R61), and no injection is armed (R394).

LDS of a local SRAM address delivers the little-endian number there, sign-extended for I32, I16x2 and I8x4 and zero-extended else, by the end of
the cycle 7 later (R7, R274); a store of lower LSID in the same block instance is seen first (R195). Stated where no redirection,
guard granule, REP block or injection takes part. -/
def Obligations.Loads : Prop :=
  (∀ (i : Instr) (stride : Bool) (s : State) (f : Fired),
    (∃ lsid imm t0 p t, (i = .ldv lsid imm t0 p ∧ stride = false) ∨ (i = .lds lsid imm t0 p t ∧ stride = false)
      ∨ (i = .ldgv lsid imm t0 p t ∧ stride = false) ∨ (i = .ldvs lsid imm t0 p t ∧ stride = true)) →
    let ops := if f.sh.b.isSome then [f.a, f.b] else [f.a]
    Fires i s f → usable ops ops → addressCheck s f i false stride f.mask = none →
    (f.slot.inst.lowerFired f.lsid = true →
      exec i s = .next ((startLoad f.core f.rid f.idx i f.a f.b f.pred).run (s.noted f)))
    ∧ (f.slot.inst.lowerFired f.lsid = false →
      exec i s = .next (s.after f fun x => { x with
        waits := x.waits.filter (fun v => v.1 != f.idx) ++ [(f.idx, .load i f.a f.b f.pred)] })))
  ∧ (∀ (s : State) (core rid idx : Nat) (i : Instr) (a b : Token) (pred : Option Token) (sl : Slot), s.slot? core rid = some sl →
    let mask := predMask i pred
    let xs := pieces mask (accesses (memForm i) a b mask)
    let at' := (xs.flatMap Access.addrs).map (s.redirect core rid)
    s.windowReady core rid xs = true → bit (s.bar 0 0x10068 8) 63 = false →
    (∀ k ∈ at', s.guarded (Space.loc core k) = false ∧ s.blockState core k = false) → nullLoad i a b = false →
    (startLoad core rid idx i a b pred).run s = s.withInst core rid fun x => { x with
      waits := x.waits.filter (fun v => v.1 != idx)
      toks := x.toks ++ (shape i).targets.map fun t =>
        { dest := t, from? := idx, due := s.cycle + loadLatency i xs - 1
          val := loadToken (memForm i) xs (cut (xs.map (·.w)) (at'.map (s.loadByte core rid sl.inst ((shape i).lsid.getD 0)))) } })
  ∧ (∀ (lsid : BitVec 4) (imm : BitVec 6) (t0 : Target) (p : Pred) (t : LaneType) (s : State) (f : Fired) (base : Word64),
    Fires (.lds lsid imm t0 p t) s f → f.a = .sca (some (base, false)) → (Instr.lds lsid imm t0 p t).wf = true →
    f.slot.inst.lowerFired f.lsid = true → f.slot.inst.effects = [] → bit (s.bar 0 0x10068 8) 63 = false →
    s.guard = [] → s.poison = [] → (s.row? f.core f.rid).all (fun r => r.redir.isEmpty) = true →
    let w := t.width / 8
    let ea := ((base.toNat : Int) + imm.toInt * w).toNat
    0 ≤ (base.toNat : Int) + imm.toInt * w → ea % min w 4 = 0 → (w = 8 → ea % 8 = 0) → ea + w ≤ 0x200000 →
    base.toNat < 2 ^ 32 → s.inPool f.core ea w = false →
    (∀ k, ea ≤ k → k < ea + w → s.blockState f.core k = false) →
    ∃ v : Word64, v.toNat = (if t.isSigned then wrap 64 (signed (8 * w) (s.loc f.core ea w)) else s.loc f.core ea w)
      ∧ exec (.lds lsid imm t0 p t) s = .next (s.after f fun x => { x with
          waits := x.waits.filter (fun y => y.1 != f.idx)
          toks := x.toks ++ f.tokens (.sca (some (v, false))) (s.cycle + 7) }))

/-- STV, STS, STSV and STVS that pass the checks of R274 hold the bytes they write, of the lanes that the predicate selects and whose data
and offsets are not null, as effects of their LSID for the commit (R71, R195, R276); memory is unchanged until then.

STS of a local SRAM address holds the low bytes of its data at A + IMM × width for the commit (R274, R276), in the row's view where the
address lies in a declared tile (R298).

A misaligned load or store raises LocalAlign, 0x0302, one outside every range LocalAddress, 0x0301, and a load or store with a byte in the
window of a tile that the row may not use AccWindow, 0x0304 (R274). Said of the shared check. -/
def Obligations.Stores : Prop :=
  (∀ (i : Instr) (stride : Bool) (s : State) (f : Fired),
    (∃ lsid imm p t, (i = .stv lsid imm p ∧ stride = false) ∨ (i = .sts lsid imm p t ∧ stride = false)
      ∨ (i = .stsv lsid imm p t ∧ stride = false) ∨ (i = .stvs lsid imm p t ∧ stride = true)) →
    let vec := f.sh.c.isSome
    let data := if vec then f.c else f.b
    let mask := if vec then f.mask.zipIdx.map fun m => m.1 && (laneAt data.lanes m.2).isSome else f.mask
    let bss := (pieces mask (accesses (memForm i) f.a f.b mask)).filterMap fun x =>
      (storeData (memForm i) f x).map fun d => pbytes x.ea x.w d.1 d.2
    Fires i s f → usable (if vec then [f.a, f.b] else [f.a]) (if vec then [f.a, f.b, f.c] else [f.a, f.b]) →
    addressCheck s f i true stride mask = none → (∀ b ∈ bss.flatten, b.poison = false) →
    let whole := if vec then none else (accesses (memForm i) f.a f.b mask).head?.map fun x => (x.ea, x.w)
    exec i s = .next (s.after f fun x => { x with
      effects := (storeEffects s f.core f.rid whole bss).foldl (fun l e => insertEffect (f.lsid, f.idx, e) l) x.effects }))
  ∧ (∀ (lsid : BitVec 4) (imm : BitVec 14) (p : Pred) (t : LaneType) (s : State) (f : Fired) (base v : Word64),
    Fires (.sts lsid imm p t) s f → f.a = .sca (some (base, false)) → f.b = .sca (some (v, false)) →
    (Instr.sts lsid imm p t).wf = true → base.toNat < 2 ^ 32 →
    let w := t.width / 8
    let ea := ((base.toNat : Int) + imm.toInt * w).toNat
    0 ≤ (base.toNat : Int) + imm.toInt * w → ea % min w 4 = 0 → (w = 8 → ea % 8 = 0) → ea + w ≤ 0x200000 → s.inPool f.core ea w = false →
    exec (.sts lsid imm p t) s = .next (s.holdsEffect f (.store
      ((pbytes ea w v.toNat false).map fun b => { b with addr := s.redirect f.core f.rid b.addr }))))
  ∧ (∀ (s : State) (core rid : Nat) (isStore : Bool) (lane ea w : Nat), w ∈ [1, 2, 4, 8, 128] →
    let check := s.accessCheck core rid isStore { lane := lane, ea := ea, w := w }
    (ea % min w 4 ≠ 0 ∨ (w = 8 ∧ ea % 8 ≠ 0) → check = some 0x0302)
    ∧ (ea % min w 4 = 0 → (w = 8 → ea % 8 = 0) →
        (0x200000 ≤ ea → ea < 0x01000000 → check = some 0x0301)
        ∧ (ea + w ≤ 0x200000 → s.inPool core ea w = false → check = none)
        ∧ (ea + w ≤ 0x200000 → s.inPool core ea w = true → check = some 0x0301)
        ∧ (0x01800000 ≤ ea → ea + w ≤ 0x01840000 → check = none)
        ∧ (0x01200000 ≤ ea → ea + w ≤ 0x01240000 → (∃ k, k < w ∧ s.mayUseTile core rid ((ea + k - 0x01200000) / 0x10000) = false) →
            check = some 0x0304)
        ∧ (0x01400000 ≤ ea → ea + w ≤ 0x01401000 → w ≠ 4 → check = some 0x0301)))

/-- AOP and ACAS whose address passes the checks of R278: in local SRAM they are performed once every LSID-carrying instruction of lower
LSID has fired, on the row's view where one is declared (R298), and wait for that else; a remote one delivers null and holds its
read-modify-write for the commit (R279), and raises AtomicOrder, 0x0308, where a store of lower LSID of its instance overlaps it (R278).

The read-modify-write of R277 at T 13 and 14: add modulo 2^64, AND, OR, XOR, the lesser and the greater, signed for I64, and exchange;
ACAS writes C where the old value is B.

A local atomic that is performed delivers the old value by the end of cycle c + L - 1 and leaves the new value in memory, as one event
(R277, R278); bytes outside it, and the stored word of an ACAS that compares unequal, are unchanged. Said where no store of lower
LSID overlaps it, no armed object, queue descriptor, guard granule or poison lies in its bytes, which lie in no row (R278), and no injection is
armed (R394). That a remote atomic is judged, and a local one performed, when the lower LSIDs have fired is the model's reading (log 36). -/
def Obligations.Atomics : Prop :=
  (∀ (i : Instr) (cas : Bool) (fn : Nat) (t : LaneType) (s : State) (f : Fired),
    (∃ lsid k t0 p, (i = .aop lsid k t0 p t ∧ cas = false ∧ fn = k.toNat) ∨ (i = .acas lsid t0 p t ∧ cas = true ∧ fn = 0)) →
    let op (addr : Nat) : AtomicOp := { cas := cas, fn := fn, ty := t, addr := addr, b := f.b.num, c := f.c.num,
                                        poison := f.b.poisoned || (cas && f.c.poisoned) }
    let here := op (s.redirect f.core f.rid f.a.num)
    Fires i s f → usable [f.a] (if cas then [f.a, f.b, f.c] else [f.a, f.b]) →
    (∀ c ∈ s.atomicChecks f.core f.rid f.a.num (atomicWidth t), c.1 = true) →
    (rangeOf f.a.num ≠ some .remote → f.slot.inst.lowerFired f.lsid = true →
      exec i s = .next ((atomicNow f.core f.rid f.idx f.sh here).run (s.noted f)))
    ∧ (rangeOf f.a.num ≠ some .remote → f.slot.inst.lowerFired f.lsid = false →
      exec i s = .next (s.after f fun x => { x with waits := x.waits.filter (fun v => v.1 != f.idx) ++ [(f.idx, .atomic here)] }))
    ∧ (rangeOf f.a.num = some .remote →
      let dst := f.a.num / 2 ^ 21 % 256
      let there := op (f.a.num % 2 ^ 21)
      let sent (x : Inst) : Inst := { x with
        effects := insertEffect (f.lsid, f.idx, .remoteAtomic dst there) x.effects
        toks := x.toks ++ f.tokens .nullSca (s.cycle + f.sh.lat - 1) }
      let hits := f.slot.inst.overlapsStore f.core f.lsid dst ((List.range (atomicWidth t)).map (there.addr + ·))
      (f.slot.inst.lowerFired f.lsid = true → hits = false →
        exec i s = .next (s.after f fun x => { sent x with waits := x.waits.filter fun v => v.1 != f.idx }))
      ∧ (f.slot.inst.lowerFired f.lsid = true → hits = true → f.slot.inst.failed = none → ∃ u, exec i s = .next u
        ∧ (u.slot? f.core f.rid).map (·.inst.failed)
          = some (some { code := 0x0308, tvalid := true, tidx := f.idx, twe := false, cycle := s.cycle, commit := false }))
      ∧ (f.slot.inst.lowerFired f.lsid = false →
        exec i s = .next (s.after f fun x => { sent x with
          waits := x.waits.filter (fun v => v.1 != f.idx) ++ [(f.idx, .order dst there)] }))))
  ∧ (∀ (t : LaneType) (old b c : Word64), t.isScalar = true →
    let op (cas : Bool) (fn : Nat) : AtomicOp :=
      { cas := cas, fn := fn, ty := t, addr := 0, b := b.toNat, c := c.toNat, poison := false }
    let lt (x y : Word64) : Bool := if t = .i64 then x.slt y else x.ult y
    atomicNew (op false 0) old.toNat = (old + b).toNat
    ∧ atomicNew (op false 1) old.toNat = (old &&& b).toNat
    ∧ atomicNew (op false 2) old.toNat = (old ||| b).toNat
    ∧ atomicNew (op false 3) old.toNat = (old ^^^ b).toNat
    ∧ atomicNew (op false 4) old.toNat = (if lt b old then b else old).toNat
    ∧ atomicNew (op false 5) old.toNat = (if lt old b then b else old).toNat
    ∧ atomicNew (op false 6) old.toNat = b.toNat
    ∧ atomicNew (op true 0) old.toNat = (if old = b then c else old).toNat
    ∧ (atomicWrites (op true 0) old.toNat = true ↔ old = b))
  ∧ (∀ (s : State) (core rid idx : Nat) (sh : Shape) (op : AtomicOp) (sl : Slot), s.slot? core rid = some sl →
    let w := atomicWidth op.ty
    let as := (List.range w).map (op.addr + ·)
    let old := s.loc core op.addr w
    sl.inst.overlapsStore core (sh.lsid.getD 0) core as = false →
    (∀ a ∈ as, s.armedAt core a = none ∧ s.guarded (Space.loc core a) = false ∧ s.poisoned (Space.loc core a) = false
      ∧ s.row? core (ridOf a) = none ∧ s.inQueue core a = false) →
    op.poison = false → op.addr + w ≤ 0x200000 → bit (s.bar 0 0x10068 8) 63 = false →
    let t := (atomicNow core rid idx sh op).run s
    t.mem = (if atomicWrites op old then Memory.write s.mem (Space.loc core op.addr) (leBytes w (atomicNew op old)) else s.mem)
    ∧ (t.slot? core rid).map (fun x => (x.inst.atomicDone, x.inst.toks)) = some (true, sl.inst.toks ++ sh.targets.map fun k =>
        { dest := k, from? := idx, due := s.cycle + sh.lat - 1, val := .ofNat (atomicOld op old) }))

/-- QPUSH, QPOP and QSTOP of a queue of the row's gang go to their bank unit once every LSID-carrying instruction of lower LSID has fired
(R290), and wait for that else; any other address raises QueueAddress, 0x0408.

What queue operations do at their bank unit (R289, R290): a push with room adds one entry and delivers its number, a pop of a queue that
holds one takes the oldest and delivers its 32 words, or null for a stop token, a stop sets STOPAT once and adds the stop token; a push
behind it records QueueStopped, 0x0409; one that cannot be performed waits, and so does one behind an earlier
one that waits for the same on its queue. A push leaves its lanes in the slot at the tail, and of a null lane what stood there. Said of a descriptor outside every row, without poison,
guard granules or armed objects in it or in the ring slot, whose ring slot lies apart from it and from every descriptor, and without an injection. -/
def Obligations.StageQueues : Prop :=
  (∀ (i : Instr) (fn : Nat) (s : State) (f : Fired),
    (∃ lsid t0 p, (i = .qpush lsid t0 p ∧ fn = 0) ∨ (i = .qpop lsid t0 p ∧ fn = 1) ∨ (i = .qstop lsid t0 p ∧ fn = 2)) →
    Fires i s f → usable [f.a] (if fn = 0 then [f.a, f.b] else [f.a]) →
    (s.isGangQueue f.core f.a.num = true →
      (f.slot.inst.lowerFired f.lsid = true →
        exec i s = .next ((queueArrive f.core f.rid f.idx f.sh fn f.a.num f.b f.pred).run (s.noted f)))
      ∧ (f.slot.inst.lowerFired f.lsid = false →
        exec i s = .next (s.after f fun x => { x with
          waits := x.waits.filter (fun v => v.1 != f.idx) ++ [(f.idx, .queue fn f.a.num f.b f.pred none)] })))
    ∧ (s.isGangQueue f.core f.a.num = false → f.slot.inst.failed = none →
      ∃ t, exec i s = .next t ∧ t.mem = s.mem ∧ (t.slot? f.core f.rid).map (·.inst.failed)
        = some (some { code := 0x0408, tvalid := true, tidx := f.idx, twe := false, cycle := s.cycle, commit := false })))
  ∧ (∀ (s : State) (core rid idx fn d ticket : Nat) (sh : Shape) (data : Token) (pred : Option Token) (sl : Slot),
    s.slot? core rid = some sl → d + 32 ≤ 0x200000 → d % 32 = 0 → fn < 3 →
    let as := s.queueBytes core d fn
    let t := (queueNow core rid idx sh fn d data pred ticket).run s
    let first : Prop := s.queueBehind core d fn ticket = false
    (∀ a ∈ as, a < 0x200000 ∧ s.armedAt core a = none ∧ s.guarded (Space.loc core a) = false
      ∧ s.poisoned (Space.loc core a) = false ∧ s.row? core (ridOf a) = none) →
    let slot := s.qSlot core d (s.qTail core d)
    (∀ k, k < 128 → (slot + k < d ∨ d + 32 ≤ slot + k) ∧ s.inQueue core (slot + k) = false) → data.poisoned = false →
    bit (s.bar 0 0x10068 8) 63 = false →
    let tokens (v : Token) : List Tok := sh.targets.map fun k => { dest := k, from? := idx, due := s.cycle + sh.lat - 1, val := v }
    let toks (x : State) : Option (List Tok) := (x.slot? core rid).map (·.inst.toks)
    (fn = 0 → first → s.qStop core d = 0xFFFFFFFF → s.qCount core d < s.qDepth core d →
      t.qTail core d = (s.qTail core d + 1) % 2 ^ 32 ∧ t.qHead core d = s.qHead core d
      ∧ (∀ k, k < 32 → t.loc core (slot + 4 * k) 4 = (laneAt data.lanes k).elim (s.loc core (slot + 4 * k) 4) (·.1.toNat))
      ∧ toks t = some (sl.inst.toks ++ tokens (.ofNat (s.qTail core d))))
    ∧ (fn = 1 → first → s.qCount core d ≠ 0 →
      t.qHead core d = (s.qHead core d + 1) % 2 ^ 32 ∧ t.qTail core d = s.qTail core d
      ∧ toks t = some (sl.inst.toks ++ tokens (.vec ((List.range 32).map fun k =>
          if s.isStop core d (s.qHead core d) || !(maskOf sh.p (pred.getD .nullSca)).getD k false then none
          else some (BitVec.ofNat 32 (s.loc core (s.qSlot core d (s.qHead core d) + 4 * k) 4), false)))))
    ∧ (fn = 2 → first → s.qCount core d < s.qDepth core d →
      t.qTail core d = (s.qTail core d + 1) % 2 ^ 32
      ∧ t.qStop core d = (if s.qStop core d = 0xFFFFFFFF then s.qTail core d else s.qStop core d)
      ∧ toks t = some (sl.inst.toks ++ tokens (.ofNat (s.qTail core d))))
    ∧ (fn = 0 → s.qStop core d ≠ 0xFFFFFFFF →
      let org : Origin := { Origin.device core with rid := rid, lsid := sh.lsid.getD 0 }
      t.mem = s.mem ∧ toks t = some (sl.inst.toks ++ tokens .nullSca)
      ∧ t.row? core rid = (s.row? core rid).map fun r => { r with held := r.held ++ [.cond (condOf org 0x0409 core d)] })
    ∧ (fn ≠ 1 → (fn = 0 → s.qStop core d = 0xFFFFFFFF) → s.qDepth core d ≤ s.qCount core d → toks t = toks s ∧ t.mem = s.mem)
    ∧ (fn = 1 → s.qCount core d = 0 → toks t = toks s ∧ t.mem = s.mem)
    ∧ (s.queueBehind core d fn ticket = true → (fn = 0 → s.qStop core d = 0xFFFFFFFF) → toks t = toks s ∧ t.mem = s.mem))

/-- BINIT, BARV, BEXP and DRAIN of an object, and EVSIG of a line, hold their effect for the commit (R282, R283, R285, R288), where their operands
have the forms these rules give, and a remote object lies on a core of the tenant (R276); BPH reads a local object once every LSID-carrying
instruction of lower LSID has fired (R284).

An arrival at an armed object (R280, R281): the counts take the arrivals, the bytes and what BEXP expects; while either count is short of its
expectation nothing else happens. An object that is not armed takes nothing, and its condition is BarrierUnarmed, 0x0403 (R348). This and the next
are said of an object that lies in no read-only field (R8).

R281: an object whose arrivals and bytes have reached their expectations flips: PHASE toggles, ARRA and ARRB fall by EXPA and EXPB, and EXPB
becomes 0; the flip is broadcast to the other cores of the gang. Said of an object without parent, children or superstep bit, whose next phase is not
complete too.

Signals at a line that the row's function owns (R287, R288): SET releases every waiter of an event line and sets it, CLEAR clears it, a signal
to a mutex line by its holder with no waiter frees it; SIGNALS counts each. An operation that the kind does not take, or from a
row that does not hold the mutex, is MutexOwner, 0x0407, and one at a line of another function EventOwner, 0x0405 (R348). -/
def Obligations.Barriers : Prop :=
  (∀ (lsid : BitVec 4) (flag : Bool) (op : BitVec 2) (t0 : Target) (p : Pred) (s : State) (f : Fired),
    let o := objectAt f.core f.a.num
    let object : Prop := objectAddress f.a.num = true ∧ (o.1 = f.core ∨ s.ownsCore (s.tenant f.core f.rid) o.1 = true)
    (Fires (.binit lsid flag p) s f → usable [f.a, f.b, f.c] [f.a, f.b, f.c] → f.a.num < 2 ^ 21 → f.a.num % 32 = 0 →
      1 ≤ f.b.num → f.b.num < 2 ^ 32 → f.c.num < 2 ^ 32 → f.c.num % 2 ^ 24 < 2 ^ 21 → f.c.num % 32 = 0 →
      (flag = true → (s.gangOn? f.core).any (·.superstep) = true ∧ f.c.num = 0) →
      exec (.binit lsid flag p) s
        = .next (s.holdsEffect f (.binit f.a.num f.b.num (f.c.num / 2 ^ 24) (f.c.num % 2 ^ 21) flag)))
    ∧ (Fires (.barv lsid p) s f → usable [f.a] [f.a] → object →
      exec (.barv lsid p) s = .next (s.holdsEffect f (.arrive o.1 o.2 1 0 (o.1 != f.core) false)))
    ∧ (Fires (.bexp lsid flag p) s f → usable [f.a, f.b] [f.a, f.b] → object → f.b.num < 2 ^ 32 →
      exec (.bexp lsid flag p) s = .next (s.holdsEffect f (.arrive o.1 o.2 flag.toNat f.b.num (o.1 != f.core) false)))
    ∧ (Fires (.drain lsid p) s f → usable [f.a] [f.a] → object →
      exec (.drain lsid p) s = .next (s.holdsEffect f (.arrive o.1 o.2 1 0 (o.1 != f.core) true)))
    ∧ (Fires (.evsig lsid op p) s f → usable [f.a] [f.a] → f.a.num < 2 ^ 13 → bits f.a.num 7 6 = 0 →
      exec (.evsig lsid op p) s = .next (s.holdsEffect f
        (.signal (if bit f.a.num 12 then bits f.a.num 11 8 else clusterOf f.core) (f.a.num % 64) op.toNat)))
    ∧ (Fires (.bph lsid t0 p) s f → usable [f.a] [f.a] → f.a.num < 2 ^ 21 → f.a.num % 32 = 0 →
      (f.slot.inst.lowerFired f.lsid = true →
        exec (.bph lsid t0 p) s = .next ((phaseNow f.core f.rid f.idx f.sh f.a).run (s.noted f)))
      ∧ (f.slot.inst.lowerFired f.lsid = false →
        exec (.bph lsid t0 p) s = .next (s.after f fun x => { x with
          waits := x.waits.filter (fun v => v.1 != f.idx) ++ [(f.idx, .load (.bph lsid t0 p) f.a f.b f.pred)] }))))
  ∧ (∀ (s : State) (org : Origin) (core a arrivals bytes expect : Nat) (k : Option Cond → Act),
    let n := s.loc core (a + 8) 4 + arrivals
    let b := s.loc core (a + 0x18) 8 + bytes
    let e := s.loc core (a + 0x10) 8 + expect
    a % 32 = 0 → a < 2 ^ 21 → (∀ j, j < 8 → s.poisoned (Space.loc core (a + 4 * j)) = false) →
    n < 2 ^ 32 → b < 2 ^ 64 → e < 2 ^ 64 → bit (s.bar 0 0x10068 8) 63 = false → s.plainObject core a →
    (bit (s.loc core a 1) 3 = false → (arriveAt org core a arrivals bytes expect k).run s = (k (some (condOf org 0x0403 core a))).run s)
    ∧ (bit (s.loc core a 1) 3 = true → n < s.loc core (a + 4) 4 ∨ b < e →
        let t := (arriveAt org core a arrivals bytes expect fun _ => .done).run s
        t.loc core (a + 8) 4 = n ∧ t.loc core (a + 0x18) 8 = b ∧ t.loc core (a + 0x10) 8 = e
        ∧ t.loc core a 8 = s.loc core a 8 ∧ t.rows = s.rows ∧ t.mesh = s.mesh))
  ∧ (∀ (s : State) (org : Origin) (core a n : Nat), a % 32 = 0 → a < 2 ^ 21 → s.plainObject core a →
    let w := s.loc core a 1
    let expa := s.loc core (a + 4) 4
    let arra := s.loc core (a + 8) 4
    let expb := s.loc core (a + 0x10) 8
    let arrb := s.loc core (a + 0x18) 8
    bit w 3 = true → bit w 5 = false → bit w 4 = false → s.loc core (a + 0x0C) 4 % 2 ^ 21 = 0 → (s.coreSt core).cdone = [] →
    1 ≤ expa → expa ≤ arra → expb ≤ arrb → arra < 2 * expa → 2 ≤ n →
    let t := (barrierStep (n + 1) false org core a).run s
    t.loc core a 1 = w - w % 2 + (1 - w % 2) ∧ t.loc core (a + 8) 4 = arra - expa ∧ t.loc core (a + 0x18) 8 = arrb - expb
    ∧ t.loc core (a + 0x10) 8 = 0 ∧ t.loc core (a + 4) 4 = expa
    ∧ t.mesh = s.mesh ++ (s.gangOn? core).elim [] fun g => (g.allCores.filter (· != core)).map fun d =>
        { src := core, dst := d, org := Origin.device core, pay := .flip core a, since := s.cycle })
  ∧ (∀ (s : State) (org : Origin) (cluster l op : Nat) (k : Option Cond → Act), l < 64 → cluster < 16 →
    let key := lineKey cluster l
    let w := s.le key 4
    let kind := bits w 31 30
    let t := (signalLine org cluster l op fun _ => .done).run s
    let holder : Prop := bits (s.le (key + 8) 4) 31 24 = org.core ∧ s.le (key + 8) 4 % 512 = org.rid
    (∀ i, i < 6 → s.poisoned (key + 4 * i) = false) →
    (org.rid ≠ 512 → s.lineOwned cluster l org.core org.rid true = false →
      (signalLine org cluster l op k).run s = (k (some (condOf org 0x0405 org.core (lineInfo cluster l)))).run s)
    ∧ (s.lineOwned cluster l org.core org.rid true = true →
      (kind = 3 → op = 0 → bit (t.le key 4) 28 = true ∧ ∀ r ∈ s.lineWaiters cluster l, (t.row? r.1 r.2).any (·.wake) = true)
      ∧ (kind = 3 → op = 1 → bit (t.le key 4) 28 = false)
      ∧ (kind = 2 → op = 0 → bit w 27 = true → holder → s.lineWaiters cluster l = [] → bit (t.le key 4) 27 = false)
      ∧ (kind = 2 → op = 0 → bit w 27 = true → ¬ holder →
          (signalLine org cluster l op k).run s = (k (some (condOf org 0x0407 org.core (lineInfo cluster l)))).run s)
      ∧ (kind = 3 ∧ op ≤ 2 ∨ kind = 1 ∧ op = 0 → s.le (key + 0x10) 4 + 1 < 2 ^ 32 →
          t.le (key + 0x10) 4 = s.le (key + 0x10) 4 + 1)
      ∧ (kind = 0 ∨ kind = 1 ∧ op ≠ 0 ∨ kind = 2 ∧ (op ≠ 0 ∨ bit w 27 = false) ∨ kind = 3 ∧ 2 < op →
          (signalLine org cluster l op k).run s = (k (some (condOf org 0x0407 org.core (lineInfo cluster l)))).run s)))

/-- A Halyard instruction whose operands pass the checks of R293 reserves the lowest free queue entry, filled from its operands as R126 gives, and
holds its dispatch for the commit (R122, R291, R292); with no free entry it has not fired after all.

What the checks of R293 refuse: an extent beyond local SRAM, HalyardAddress, 0x0601; a length of 0, HalyardLength, 0x0602; a core
that is not of the tenant and its gang, HalyardTarget, 0x0603. Said of HGET and HSND. -/
def Obligations.HalyardInstructions : Prop :=
  (∀ (i : Instr) (kind : HKind) (dl rel acq : Bool) (rsc asc : BitVec 3) (t : LaneType) (s : State) (f : Fired),
    (∃ lsid p, (i = .hget lsid dl rsc asc rel acq p ∧ kind = .hget ∧ t = .i32)
      ∨ (i = .hsnd lsid dl rsc asc rel acq p ∧ kind = .hsnd ∧ t = .i32)
      ∨ (i = .hgath lsid dl rsc asc rel acq p t ∧ kind = .hgath) ∨ (i = .hscat lsid dl rsc asc rel acq p t ∧ kind = .hscat)
      ∨ (i = .hsadd lsid dl rsc asc rel acq p t ∧ kind = .hsadd)
      ∨ (i = .hpfch lsid dl p ∧ kind = .hpfch ∧ rel = false ∧ acq = false ∧ rsc = 0 ∧ asc = 0 ∧ t = .i32)) →
    let h : HForm := { kind := kind, local' := f.a.num % 2 ^ 32, ahi := f.a.high, far := f.b.num, cnt := f.c.num % 2 ^ 32,
                       chi := f.c.high, size := (if t.isScalar then 8 else t.width / 8) }
    Fires i s f → usable [f.a, f.b, f.c] [f.a, f.b, f.c] → (∀ c ∈ s.halyardChecks f.core f.rid h, c.1 = true) →
    (∀ e, s.freeEntry f.core = some e →
      exec i s = .next { s.holdsEffect f (.halyard e) with
        cores := Tab.set s.cores f.core { s.coreSt f.core with
          halyard := Tab.set (s.coreSt f.core).halyard e (h.entry f.core dl rel acq rsc.toNat asc.toNat t (f.origin s)) } })
    ∧ (s.freeEntry f.core = none →
      exec i s = .next (s.after f fun x => { x with fired := x.fired.filter fun g => g.1 != f.idx, busy := f.slot.inst.busy })))
  ∧ (∀ (lsid : BitVec 4) (dl rel acq : Bool) (rsc asc : BitVec 3) (p : Pred) (s : State) (f : Fired),
    usable [f.a, f.b, f.c] [f.a, f.b, f.c] → f.slot.inst.failed = none →
    let fails (o : Host.Outcome State Fault Refusal) (code : Nat) : Prop := ∃ t, o = .next t ∧ t.mem = s.mem ∧ t.cores = s.cores ∧
      (t.slot? f.core f.rid).map (·.inst.failed)
        = some (some { code := code, tvalid := true, tidx := f.idx, twe := false, cycle := s.cycle, commit := false })
    let far := f.b.num
    let lo := f.a.num % 2 ^ 32
    let len := f.c.num % 2 ^ 32
    (Fires (.hget lsid dl rsc asc rel acq p) s f → 0x01840000 < lo + len → fails (exec (.hget lsid dl rsc asc rel acq p) s) 0x0601)
    ∧ (Fires (.hget lsid dl rsc asc rel acq p) s f → f.a.high = 0 → s.extentOk f.core lo len true = true → farVa far = true →
        len = 0 → fails (exec (.hget lsid dl rsc asc rel acq p) s) 0x0602)
    ∧ (Fires (.hsnd lsid dl rsc asc rel acq p) s f → s.extentOk f.core lo len false = true →
        s.extentOk f.core (far % 2 ^ 21) len false = true → 1 ≤ len → len ≤ 2 ^ 31 → farVa far = false → farGroup far = false →
        s.ownsCore (s.tenant f.core f.rid) (farCore far) = false → fails (exec (.hsnd lsid dl rsc asc rel acq p) s) 0x0603))

/-- The matrix and plate commands hold their command, with its operands, for the commit (R253, R254); PLSPL and PLFIL to another core too, and to or
from memory they reserve a Halyard entry, which only their own core may ask for (R269).

TIDSET of an image in local SRAM starts its read (R252); 8 cycles later a well-formed image is held for the commit, and one that is not raises
TidFormat, 0x0502 (R251). The read's part is said where no byte is guarded, poisoned, in a REP block's area or stored in the block, and
no injection is armed. -/
def Obligations.MatrixInstructions : Prop :=
  (∀ (lsid : BitVec 4) (flag sync lossy : Bool) (scope : BitVec 3) (p : Pred) (s : State) (f : Fired),
    let two : Prop := usable [f.a, f.b] [f.a, f.b]
    let three : Prop := usable [f.a, f.b, f.c] [f.a, f.b, f.c]
    let cmd (op : Nat) (fill : Bool) (imm : Nat) : Effect := .opa (OpaCmd.mk' op fill imm f)
    (Fires (.mxmul lsid flag p) s f → two → exec (.mxmul lsid flag p) s = .next (s.holdsEffect f (cmd 0x71 false flag.toNat)))
    ∧ (Fires (.mxdrn lsid flag p) s f → two → exec (.mxdrn lsid flag p) s = .next (s.holdsEffect f (cmd 0x72 false flag.toNat)))
    ∧ (Fires (.mxz lsid p) s f → two → exec (.mxz lsid p) s = .next (s.holdsEffect f (cmd 0x73 false 0)))
    ∧ (Fires (.plpin lsid p) s f → two → exec (.plpin lsid p) s = .next (s.holdsEffect f (cmd 0x74 false 0)))
    ∧ (Fires (.plunp lsid p) s f → two → exec (.plunp lsid p) s = .next (s.holdsEffect f (cmd 0x74 true 0)))
    ∧ (Fires (.pldlt lsid p) s f → three → exec (.pldlt lsid p) s = .next (s.holdsEffect f (cmd 0x75 false 0)))
    ∧ (Fires (.plrd lsid p) s f → two → exec (.plrd lsid p) s = .next (s.holdsEffect f (cmd 0x76 false 0)))
    ∧ (Fires (.plspl lsid scope sync false lossy p) s f → three → exec (.plspl lsid scope sync false lossy p) s
        = .next (s.holdsEffect f (cmd 0x77 false (lossy.toNat + 4 * sync.toNat + 8 * scope.toNat))))
    ∧ (Fires (.plfil lsid scope sync false p) s f → three → exec (.plfil lsid scope sync false p) s
        = .next (s.holdsEffect f (cmd 0x77 true (4 * sync.toNat + 8 * scope.toNat))))
    ∧ ∀ e, s.freeEntry f.core = some e → f.a.num / 2 ^ 56 = f.core → three →
        (Fires (.plspl lsid scope sync true lossy p) s f → ∃ h, h.kind = 2 ∧ h.len = (if lossy then 32832 else 65600)
          ∧ h.dst = f.c.num % 2 ^ 48 ∧ h.rel = sync ∧ h.sbar = (if bits f.b.num 60 40 = 0 then 0 else f.core * 2 ^ 24 + bits f.b.num 60 40)
          ∧ exec (.plspl lsid scope sync true lossy p) s = .next { s.holdsEffect f (.opa
                { OpaCmd.mk' 0x77 false (lossy.toNat + 2 + 4 * sync.toNat + 8 * scope.toNat) f with entry := some e }) with
              cores := Tab.set s.cores f.core { s.coreSt f.core with halyard := Tab.set (s.coreSt f.core).halyard e h } })
        ∧ (Fires (.plfil lsid scope sync true p) s f → ∃ h, h.kind = 1 ∧ h.len = 65600
          ∧ h.src = f.c.num % 2 ^ 48 ∧ h.acq = sync ∧ h.rbar = (if bits f.b.num 60 40 = 0 then 0 else f.core * 2 ^ 24 + bits f.b.num 60 40)
          ∧ exec (.plfil lsid scope sync true p) s = .next { s.holdsEffect f (.opa
                { OpaCmd.mk' 0x77 true (2 + 4 * sync.toNat + 8 * scope.toNat) f with entry := some e }) with
              cores := Tab.set s.cores f.core { s.coreSt f.core with halyard := Tab.set (s.coreSt f.core).halyard e h } }))
  ∧ ((∀ (lsid : BitVec 4) (entry : BitVec 6) (p : Pred) (s : State) (f : Fired),
    Fires (.tidset lsid entry p) s f → usable [f.a] [f.a] → f.a.num < 2 ^ 21 → f.a.num % 32 = 0 →
    exec (.tidset lsid entry p) s = .next (s.after f fun x => { x with waits := x.waits.filter (fun v => v.1 != f.idx)
      ++ [(f.idx, .tidset entry.toNat f.a.num (if f.slot.inst.lowerFired f.lsid then some (s.cycle + 8) else none))] }))
  ∧ ∀ (s : State) (core rid idx entry a due : Nat) (sh : Shape) (sl : Slot), s.slot? core rid = some sl → due ≤ s.cycle →
    a + 32 ≤ 0x200000 → s.guard = [] → s.poison = [] → (s.row? core rid).all (fun r => r.redir.isEmpty) = true → sl.inst.effects = [] →
    bit (s.bar 0 0x10068 8) 63 = false → (∀ k, k < 32 → s.blockState core (a + k) = false) → sl.inst.failed = none →
    let img := s.bytes (Space.loc core a) 32
    let t := (tidsetNow core rid idx sh entry a (some due)).run s
    t.mem = s.mem ∧ (t.slot? core rid).map (fun x => (x.inst.effects, x.inst.failed)) = some
      (if tidWellFormed img then ([(sh.lsid.getD 0, idx, .tidset entry img)], none)
       else ([], some { code := 0x0502, tvalid := true, tidx := idx, twe := false, cycle := s.cycle, commit := false })))

/-- VDECL goes to read its image once every LSID-carrying instruction of lower LSID has fired (R296); FORK takes a join cell from the view pool, holds its
start for the commit and begins its search (R297, R216); FENCE holds its scope (R294); SYSC reserves the lowest free record, delivers its
index and holds its posting (R302). -/
def Obligations.SystemInstructions : Prop :=
  ∀ (lsid : BitVec 4) (slot : BitVec 2) (wait : Bool) (scope : BitVec 3) (imm : BitVec 6) (t0 : Target) (p : Pred) (s : State) (f : Fired),
    (Fires (.vdecl lsid slot p) s f → usable [f.a] [f.a] → f.a.num < 2 ^ 21 → f.a.num % 32 = 0 →
      (f.slot.inst.lowerFired f.lsid = true →
        exec (.vdecl lsid slot p) s = .next ((vdeclNow f.core f.rid f.idx f.sh slot.toNat f.a.num).run (s.noted f)))
      ∧ (f.slot.inst.lowerFired f.lsid = false →
        exec (.vdecl lsid slot p) s = .next (s.after f fun x => { x with
          waits := x.waits.filter (fun v => v.1 != f.idx) ++ [(f.idx, .load (.vdecl lsid slot p) f.a f.b f.pred)] })))
    ∧ (∀ cell, Fires (.fork lsid wait p) s f → usable [f.a, f.b, f.c] [f.a, f.b, f.c] → f.a.high = 0 → validBlock f.a.num = true →
        s.poolPlace f.core 16 16 = some cell →
        exec (.fork lsid wait p) s = .next { s.after f fun x => { x with
            effects := insertEffect (f.lsid, f.idx, .fork (256, 0) f.a.num f.b.num f.c.num cell wait) x.effects
            waits := x.waits.filter (fun v => v.1 != f.idx) ++ [(f.idx, .search 1 [] s.cycle)] } with
          cores := Tab.set s.cores f.core { s.coreSt f.core with pool := (s.coreSt f.core).pool ++ [(cell, 16)] } })
    ∧ (Fires (.fence lsid scope p) s f → exec (.fence lsid scope p) s = .next (s.holdsEffect f (.fence scope.toNat)))
    ∧ (∀ k, Fires (.sysc lsid imm t0 p) s f → usable [f.a, f.b, f.c] [f.a, f.b, f.c] → f.c.num % 2 ^ 32 < 2 ^ 21 → f.c.num % 8 = 0 →
        f.c.high = 0 → s.freeRecord (s.tenant f.core f.rid) = some k →
        let fn := s.tenant f.core f.rid
        exec (.sysc lsid imm t0 p) s = .next { s.after f fun x => { x with
            effects := insertEffect (f.lsid, f.idx, .sysc k imm.toNat f.a.num f.b.num (f.c.num % 2 ^ 21) 0) x.effects
            toks := x.toks ++ f.tokens (.ofNat k) (s.cycle + f.sh.lat - 1) } with
          funcs := Tab.set s.funcs fn { s.func fn with calls := (s.func fn).calls ++
            [{ index := k, posted := false, orphan := false, org := f.origin s, reply := f.c.num % 2 ^ 21, rbar := 0, answer := none }] } })

/-- CTLRD delivers the register that slot A names and CTLWR holds its write for the commit (R301). One that does not exist raises CtlRegister,
0x0606, and one of the cluster-supervisor role in a row without it CtlAccess, 0x0607.

What a control register holds and what CTLWR changes (R8, R70, R129, R172, R301): a write of FLAGSUM clears the flags its ones name, but not those
committed in its own cycle; BCONF and HYCTL take the written value; OUTST reads the row's outstanding count and takes no write. -/
def Obligations.ControlRegisters : Prop :=
  (∀ (lsid : BitVec 4) (t0 : Target) (p : Pred) (s : State) (f : Fired),
    let reg := f.a.num % 2 ^ 16
    let index := f.a.num / 2 ^ 16
    let may : Prop := ctlSupervised reg = false ∨ s.supervisor f.core f.rid = true
    let fails (o : Host.Outcome State Fault Refusal) (code : Nat) : Prop := ∃ t, o = .next t ∧ t.mem = s.mem ∧
      (t.slot? f.core f.rid).map (·.inst.failed)
        = some (some { code := code, tvalid := true, tidx := f.idx, twe := false, cycle := s.cycle, commit := false })
    f.a.high = 0 →
    (Fires (.ctlrd lsid t0 p) s f → usable [f.a] [f.a] → ctlExists reg index = true → may →
      exec (.ctlrd lsid t0 p) s = .next (s.delivers f (.ofNat (s.ctlValue f.core f.rid reg index))))
    ∧ (Fires (.ctlwr lsid p) s f → usable [f.a, f.b] [f.a, f.b] → ctlExists reg index = true → may →
      exec (.ctlwr lsid p) s = .next (s.holdsEffect f (.ctlwr reg index f.b.num)))
    ∧ (Fires (.ctlrd lsid t0 p) s f → usable [f.a] [f.a] → f.slot.inst.failed = none → ctlExists reg index = false →
      fails (exec (.ctlrd lsid t0 p) s) 0x0606)
    ∧ (Fires (.ctlrd lsid t0 p) s f → usable [f.a] [f.a] → f.slot.inst.failed = none → ctlExists reg index = true → ¬ may →
      fails (exec (.ctlrd lsid t0 p) s) 0x0607))
  ∧ (∀ (s : State) (core rid v : Nat), v < 2 ^ 64 →
    let after (reg index : Nat) : State := (ctlWrite core reg index v).run s
    (∀ b, b < 8 → (s.coreSt core).bconf.length = 8 → (after 1 b).ctlValue core rid 1 b = v % 2 ^ 32)
    ∧ (after 0x28 0).ctlValue core rid 0x28 0 = v % 256
    ∧ after 2 0 = s
    ∧ (s.row? core rid).elim 0 (·.outst) = s.ctlValue core rid 2 0
    ∧ ((s.clusterSt (clusterOf core)).recentAt ≠ s.cycle → ∀ b, 8 ≤ b → b ≤ 12 →
        bit ((after 0x10 0).ctlValue core rid 0x10 0) b = (bit (s.ctlValue core rid 0x10 0) b && !bit v b))
    ∧ (∀ reg index, (after reg index).mem = s.mem))

/-! ### Blocks and rows -/

/-- R71, R192: until its block commits an instruction changes no memory, no row, no message and no time: stores, arrivals, commands, exits, register
writes and postings are held. It is said of every encoded instruction but loads, atomics, queue operations, BPH and VDECL, which act
at their bank unit (R195, R278, R290, R296). -/
def Obligations.NothingBeforeCommit : Prop :=
  ∀ (i : Instr) (n w : Nat) (s t : State), encode i = some (n, w) →
    (match i with
      | .ldv .. => false | .lds .. => false | .ldgv .. => false | .ldvs .. => false | .aop .. => false | .acas .. => false
      | .qpush .. => false | .qpop .. => false | .qstop .. => false | .bph .. => false | .vdecl .. => false
      | _ => true) = true →
    exec i s = .next t →
    t.mem = s.mem ∧ t.rows = s.rows ∧ t.mesh = s.mesh ∧ t.cycle = s.cycle ∧ t.time = s.time ∧ t.gangs = s.gangs ∧ t.accs = s.accs
    ∧ t.poison = s.poison ∧ t.clusters = s.clusters

/-- R71: at the commit a write entry writes its register of the row, a scalar whole and the lanes of a vector that are not null, and a null
scalar leaves its register as it was; a scalar delivered to a vector register is written, its bits [31:0], to every lane (R190); the flags of the instance are ORed into FPCTL and into FLAGSUM of the cluster (R171, R173). Said of an
instance without effects and with one used write entry. -/
def Obligations.CommitWrites : Prop :=
  ∀ (s : State) (core rid j m : Nat) (x : Inst), core < 256 → rid < 512 → (s.row? core rid).isSome = true → j < 8 → x.effects = [] →
    (∀ k, k < 8 → k ≠ j → writeEntry x.header k = 63) → writeEntry x.header j < 32 →
    m = passReg (writeEntry x.header j) x.pass (headerStride x.header) →
    let t := (commitInst core rid x).run s
    (∀ w : Word64, 24 ≤ m → m < 32 → x.value (entryT j) s.cycle = .sca (some (w, false)) → t.rowLe core rid (0x80 + 8 * (m - 24)) 8 = w.toNat)
    ∧ (24 ≤ m → m < 32 → x.value (entryT j) s.cycle = .sca none →
        t.rowLe core rid (0x80 + 8 * (m - 24)) 8 = s.rowLe core rid (0x80 + 8 * (m - 24)) 8)
    ∧ (∀ (l : List Lane) (n : Nat), m < 24 → n < 32 → x.value (entryT j) s.cycle = .vec l → (Token.vec l).poisoned = false →
        t.rowLe core rid (0x100 + 128 * m + 4 * n) 4
          = match laneAt l n with | some (w, _) => w.toNat | none => s.rowLe core rid (0x100 + 128 * m + 4 * n) 4)
    ∧ (∀ (w : Word64) (n : Nat), m < 24 → n < 32 → x.value (entryT j) s.cycle = .sca (some (w, false)) →
        t.rowLe core rid (0x100 + 128 * m + 4 * n) 4 = w.toNat % 2 ^ 32)
    ∧ (∀ n, m < 24 → n < 32 → x.value (entryT j) s.cycle = .sca none →
        t.rowLe core rid (0x100 + 128 * m + 4 * n) 4 = s.rowLe core rid (0x100 + 128 * m + 4 * n) 4)
    ∧ Flags.ofBits (t.rowLe core rid 0x10 8) = Flags.or (Flags.ofBits (s.rowLe core rid 0x10 8)) x.flags
    ∧ (t.clusterSt (clusterOf core)).flagsum = Flags.or (s.clusterSt (clusterOf core)).flagsum x.flags

/-- What the exits do to their row at the boundary (R206, R207, R211, R212): BR, BRX, CALL, YIELD and HALT set PC; CALL writes the fall-through address to
s7, YIELD makes the row ready and HALT halted; LOOP pushes its entry or, with a count of 0, skips the body; ENDL counts down and
repeats, or pops and goes on; BRKL pops and branches. TRAP takes its trap, of code 0x8000 + n, at the block's own address (R213), where no pending
condition is raised in its place (R345). FORKR without tasks goes on at the target (R215); else it writes its join cell, said of one outside every row
and queue descriptor, sends each task its start message, and waits on the cell with WAITK 5. SPLICE makes the row idle at its own block with LINK 0
and sends its task's merge chain (R217, R299).

The wait exits (R209): in the last cycle of the commit, at its end, a condition that holds leaves the exit as it is, and one that is unmet is
noted in it with the WAITK, WAITOBJ and WPH of the table (said of WAITB, WAITQR and WAITQD); at the boundary the row goes on at the target, or,
where one was noted, waits there with it. That the condition is judged at the end of the commit's last cycle, and not at the boundary, is the model's
choice (log 40). -/
def Obligations.BoundaryExits : Prop :=
  (∀ (s : State) (core rid : Nat) (x : Inst) (e : Exit), core < 256 → rid < 512 → x.pc % 16 = 0 → x.pc < 2 ^ 31 →
    e.target % 16 = 0 → e.target < 2 ^ 32 → x.effects = [] →
    let t := (exitEffect core rid x e).run s
    let ft := fallThrough x.pc x.header
    let depth := s.rowLe core rid 0x48 1 % 8
    let depth' := t.rowLe core rid 0x48 1 % 8
    let top := loopOff (depth - 1)
    (e.kind = .br ∨ e.kind = .brx ∨ e.kind = .efence → t.pc core rid = e.target ∧ t.code core rid = s.code core rid ∧ depth' = depth)
    ∧ (e.kind = .call → t.pc core rid = e.target ∧ t.rowLe core rid 0xB8 8 = ft ∧ t.code core rid = s.code core rid)
    ∧ (e.kind = .yield → t.pc core rid = e.target ∧ t.code core rid = 1)
    ∧ (e.kind = .halt → t.pc core rid = e.target ∧ t.code core rid = 4)
    ∧ (e.kind = .loop → e.a = 0 → t.pc core rid = ft ∧ depth' = depth)
    ∧ (e.kind = .loop → e.a ≠ 0 → e.a < 2 ^ 32 → depth < 4 →
        t.pc core rid = e.target ∧ depth' = depth + 1 ∧ t.rowLe core rid (loopOff depth) 4 = e.target
        ∧ t.rowLe core rid (loopOff depth + 4) 4 = ft ∧ t.rowLe core rid (loopOff depth + 8) 4 = e.a)
    ∧ (e.kind = .endl → 1 ≤ depth → depth ≤ 4 → s.rowLe core rid top 4 % 16 = 0 → s.rowLe core rid (top + 4) 4 % 16 = 0 →
        (s.rowLe core rid (top + 8) 4 = 1 →
          t.pc core rid = s.rowLe core rid (top + 4) 4 ∧ depth' = depth - 1 ∧ t.rowLe core rid (top + 8) 4 = 0)
        ∧ (2 ≤ s.rowLe core rid (top + 8) 4 → t.pc core rid = s.rowLe core rid top 4 ∧ depth' = depth
            ∧ t.rowLe core rid (top + 8) 4 = s.rowLe core rid (top + 8) 4 - 1))
    ∧ (e.kind = .brkl → 1 ≤ depth → depth ≤ 4 → t.pc core rid = e.target ∧ depth' = depth - 1)
    ∧ (e.kind = .splice → t.pc core rid = x.pc ∧ t.code core rid = 0 ∧ t.link core rid = 0 ∧
        let l := s.link core rid
        ∃ m, t.mesh = s.mesh ++ [m] ∧ m.src = core
          ∧ m.pay = .merge (bits l 63 56) (l % 2 ^ 21) (bits l 46 39) (leafDepth 9 (bits l 55 47) (bits l 46 39)))
    ∧ (e.kind = .forkr → e.a = 0 → t.pc core rid = e.target ∧ t.code core rid = s.code core rid ∧ t.mesh = s.mesh)
    ∧ (e.kind = .forkr → e.a ≠ 0 → (s.row? core rid).isSome = true → e.cell % 16 = 0 → e.cell < 2 ^ 21 → e.tasks.length < 2 ^ 16 →
        s.row? core (ridOf e.cell) = none →
        t.pc core rid = e.target ∧ t.code core rid = 3 ∧ t.waitk core rid = 5 ∧ t.waitobj core rid = e.cell
        ∧ t.loc core e.cell 2 = e.tasks.length ∧ t.loc core (e.cell + 4) 2 = rid ∧ t.loc core (e.cell + 7) 1 = 1
        ∧ t.mesh.map (fun m => (m.src, m.dst, m.pay)) = s.mesh.map (fun m => (m.src, m.dst, m.pay)) ++ e.tasks.zipIdx.map fun r =>
            let p := taskRange 9 0 e.a e.tasks.length r.2
            (core, r.1.1, .start r.1.2 p.1 p.2 r.2 e.tasks.length core e.cell e.c)))
  ∧ (∀ (s : State) (core rid n : Nat) (x : Inst) (e : Exit), x.exit = some e → e.kind = .trap n →
    (x.drains = true ∨ x.drained = true → bits (((performHeld core rid).run s).errword core rid) 63 48 = 0) →
    (boundary core rid x).run s = (Act.all [modRow core rid fun r => { r with trapBit := false, rep := 0 },
      takeTrap core rid (0x8000 + n) x.pc { tvalid := true, tidx := e.index, tpass := if headerRep x.header then x.pass else 0, twe := false } false,
      .get fun u => modRow core rid fun r => { r with trapBit := u.code core rid == 2, rep := 0 },
      performHeld core rid, modInst core rid fun y => { y with exit := y.exit.map fun d => { d with wait := none } },
      trappedChain 64 core rid, pendingRequests core rid, afterBoundary core rid]).run s)
  ∧ (∀ (s : State) (core rid : Nat) (x : Inst) (e : Exit), core < 256 → rid < 512 → e.target % 16 = 0 → e.target < 2 ^ 32 →
    e.kind = .waitb ∨ e.kind = .waite ∨ e.kind = .waitqr ∨ e.kind = .waitqd →
    let t := (exitEffect core rid x e).run s
    t.pc core rid = e.target
    ∧ (e.wait = none → t.code core rid = s.code core rid ∧ t.waitk core rid = s.waitk core rid)
    ∧ (∀ k obj wph, e.wait = some (k, obj, wph) → k < 16 → obj < 2 ^ 24 → wph < 2 →
        t.code core rid = 3 ∧ t.waitk core rid = k ∧ t.waitobj core rid = obj ∧ t.wph core rid = wph))
  ∧ (∀ (s : State) (core rid : Nat) (e : Exit) (l : Slot) (w : List Work), s.slot? core rid = some l → l.inst.exit = some e →
    l.phase = .boundary (s.cycle + 1) → s.work = .judge core rid :: w →
    let noted (k wph : Nat) : Prop := ∃ t, step s = .next t ∧ t.mem = s.mem ∧ t.rows = s.rows ∧ t.mesh = s.mesh
      ∧ t.slot? core rid = some { l with inst := { l.inst with exit := some { e with wait := some (k, e.a % 2 ^ 21, wph) } } }
    (e.kind = .waitb → (s.loc core e.a 1 % 2 = e.b % 2 → step s = .next { s with work := w })
      ∧ (s.loc core e.a 1 % 2 ≠ e.b % 2 → noted 1 (e.b % 2)))
    ∧ (e.kind = .waitqr → (s.qCount core e.a < s.qDepth core e.a → step s = .next { s with work := w })
      ∧ (s.qDepth core e.a ≤ s.qCount core e.a → noted 3 0))
    ∧ (e.kind = .waitqd → (s.qCount core e.a ≠ 0 → step s = .next { s with work := w }) ∧ (s.qCount core e.a = 0 → noted 4 0)))

/-- R340: a trap writes TRAPSAVE with the check's code and the header's address, and the precise fields of ERRWORD (R343); with TRAPPC ≠ 0 the row goes
to its handler and stays as it is, else, or on a double trap (R342), it becomes trapped at the address saved. -/
def Obligations.TakesTrap : Prop :=
  ∀ (s : State) (core rid code spc : Nat) (p : Precise) (double : Bool), core < 256 → rid < 512 → code < 2 ^ 16 → spc < 2 ^ 32 →
    p.tidx < 32 → p.tpass < 16 →
    let t := (takeTrap core rid code spc p double).run s
    let e := t.errword core rid
    t.rowLe core rid 0x64 4 = spc ∧ t.rowLe core rid 0x68 2 = code
    ∧ bits e 63 47 = bits (s.errword core rid) 63 47 ∧ bits e 45 13 = bits (s.errword core rid) 45 13
    ∧ bits e 1 0 = bits (s.errword core rid) 1 0
    ∧ bit e 12 = p.tvalid ∧ (p.tvalid = true → bits e 11 7 = p.tidx ∧ bits e 6 3 = p.tpass ∧ bit e 2 = p.twe)
    ∧ t.trappc core rid = s.trappc core rid
    ∧ (double = false → s.trappc core rid ≠ 0 → t.pc core rid = s.trappc core rid ∧ t.code core rid = s.code core rid
        ∧ bit e 46 = bit (s.errword core rid) 46)
    ∧ (double = false → s.trappc core rid = 0 → t.pc core rid = spc ∧ t.code core rid = 5)
    ∧ (double = true → t.pc core rid = spc ∧ t.code core rid = 5 ∧ bit e 46 = true)

/-- RUNREQ, STOPREQ and REDIR on a row that is neither open nor claimed (R62): an idle row becomes ready, a ready, waiting, halted or trapped one stops,
a stopped one runs on, or waits on where its condition is not met, and PC := NEXTPC; before the GO of its gang it takes none (R92); for an open or claimed row they are held (R63, R74, R216), where
SPEND and RPEND of an open row show them. -/
def Obligations.RowRequests : Prop :=
  ∀ (s : State) (core rid : Nat), core < 256 → rid < 512 →
    let c := s.code core rid
    (s.holds core rid = false → s.started core rid = false →
      exec (.runreq core rid) s = .next s ∧ exec (.stopreq core rid) s = .next s ∧ exec (.redir core rid) s = .next s)
    ∧ (s.holds core rid = false → s.started core rid = true →
      (∃ t, exec (.runreq core rid) s = .next t ∧ (c = 0 → t.code core rid = 1)
        ∧ (c = 6 → t.code core rid = if s.waitk core rid = 0 ∨ s.waitMet core rid = true then 1 else 3) ∧ (c ≠ 0 → c ≠ 6 → t = s))
      ∧ (∃ t, exec (.stopreq core rid) s = .next t ∧ (c = 1 ∨ c = 3 ∨ c = 4 ∨ c = 5 → t.code core rid = 6)
        ∧ (c = 0 ∨ c = 6 → t.code core rid = c) ∧ t.pc core rid = s.pc core rid ∧ bit (t.rowLe core rid 0 8) 11 = false
        ∧ (c ≠ 3 → ∀ a, a < rowKey core rid 0 ∨ rowKey core rid 8 ≤ a → t.byte a = s.byte a))
      ∧ (∃ t, exec (.redir core rid) s = .next t ∧ t.pc core rid = s.nextpc core rid
        ∧ (c ≠ 3 → t.code core rid = c) ∧ (c = 3 → t.code core rid = 1)))
    ∧ (s.holds core rid = true → ∀ r, s.row? core rid = some r →
      (∃ t, exec (.runreq core rid) s = .next t ∧ t.mem = s.mem
        ∧ t.row? core rid = some { r with held := r.held ++ [.request true false false] })
      ∧ (∃ t, exec (.stopreq core rid) s = .next t ∧ t.code core rid = c ∧ t.pc core rid = s.pc core rid
        ∧ (s.isOpen core rid = true → bit (t.rowLe core rid 0 8) 11 = true)
        ∧ t.row? core rid = some { r with held := r.held ++ [.request false true false] })
      ∧ (∃ t, exec (.redir core rid) s = .next t ∧ t.code core rid = c ∧ t.pc core rid = s.pc core rid
        ∧ (s.isOpen core rid = true → bit (t.rowLe core rid 0 8) 12 = true)
        ∧ t.row? core rid = some { r with held := r.held ++ [.request false false true] }))

/-- A row whose condition has held becomes ready, with WAITK 0 (R209); one that has been ready for 2,048 cycles is aged (R100); a closing that is over
frees its slot (R65).

A ready row of a bank that may open takes a free slot (R64, R97): it becomes open, the block at its PC is fetched and decoded in the first of the
four opening cycles (the model's choice, log 121), and its header reads may be served from the fourth cycle (R65). Said of the best row by the keys of R97, where no injection is armed.

A sub-array serves the header read of the instance that started earliest (R69), of several that started together the one of the lowest row: its
token reaches the slot that the read entry names, and the read is done. Said where no injection is armed. -/
def Obligations.RowsRun : Prop :=
  (∀ (s : State) (core rid : Nat) (r : RowSt), core < 256 → rid < 512 → s.row? core rid = some r →
    (s.code core rid = 3 → r.wake = true → ∃ t, exec (.waitWake core rid) s = .next t
      ∧ t.code core rid = 1 ∧ t.waitk core rid = 0 ∧ t.waitobj core rid = 0
      ∧ (t.row? core rid).map (fun x => (x.ready, x.wake)) = some (s.cycle, false))
    ∧ (s.code core rid = 1 → r.ready + 2048 ≤ s.cycle → ∃ t, exec (.rowAged core rid) s = .next t
      ∧ t.mem = s.mem ∧ (t.row? core rid).map (·.aged) = some true)
    ∧ (∀ l last, s.slot? core rid = some l → l.phase = .closing last → last < s.cycle → r.held = [] →
      ∃ t, exec (.rowCloseComplete core rid) s = .next t ∧ t.isOpen core rid = false ∧ t.mem = s.mem))
  ∧ (∀ (s : State) (core bank rid : Nat), core < 256 → rid < 512 → bit (s.bar 0 0x10068 8) 63 = false →
    (s.coreSt core).stopping = none → (s.coreSt core).disabled = false →
    leastBy (s.openKey core) ((s.readyRows core bank).filter fun r => s.couldOpen core r (s.bankSlots core bank)) = some rid →
    s.isOpen core rid = false →
    ∃ t, exec (.activation core bank) s = .next t ∧ t.code core rid = 2 ∧ t.pc core rid = s.pc core rid
      ∧ (t.slot? core rid).map (fun x => (x.phase, x.openedAt, x.boundaries, x.inst)) = some (.opening s.cycle, s.cycle, 0,
          s.newInst core rid (s.cycle + 4) ((s.row? core rid).elim 0 (·.rep)) (s.fetchBlock core (s.pc core rid)))
      ∧ (t.slot? core rid).map (fun x => (x.inst.pc, x.inst.start)) = some (s.pc core rid, s.cycle + 4)
      ∧ ∀ x, s.decodeBlock core (s.pc core rid) = .ok x →
          (t.slot? core rid).map (fun l => (l.inst.header, l.inst.ins)) = some (x.header, x.ins))
  ∧ (∀ (s : State) (core bank sub e : Nat) (l : Slot), sub < 4 → s.slot? core l.rid = some l → l.core = core → l ∈ s.bankSlots core bank →
    l.phase = .running → l.inst.start ≤ s.cycle → l.inst.failed = none → bit (s.bar 0 0x10068 8) 63 = false →
    (∀ x ∈ s.bankSlots core bank, x = l ∨ (x.rid ≠ l.rid ∧ (x.phase = .running → x.inst.start ≤ s.cycle → x.inst.failed = none →
      (x.inst.reads.any fun k => x.inst.readOf k < 32 && x.inst.readOf k % 4 == sub) = true →
        l.inst.start < x.inst.start ∨ (l.inst.start = x.inst.start ∧ l.rid < x.rid)))) →
    (l.inst.reads.find? fun k => l.inst.readOf k < 32 && l.inst.readOf k % 4 == sub) = some e →
    (l.inst.reads.filter fun k => 32 ≤ l.inst.readOf k && l.inst.readOf k % 4 == sub) = [] →
    ∃ t, exec (.headerRead core bank sub) s = .next t ∧ t.mem = s.mem
      ∧ (t.slot? core l.rid).map (fun x => (x.inst.reads, x.inst.toks)) = some (l.inst.reads.filter (· != e), l.inst.toks ++
          [{ dest := readTarget l.inst.header e, val := s.regToken core l.rid (l.inst.readOf e), due := s.cycle, from? := 64 + e }]))

/-- BLOCK_COMMIT in the last cycle of a commit performs the commit and places the boundary in the next cycle, or the next pass of a REP block (R71, R72;
said of one without effects). The next block is fetched during the commit (R72, R113), at its branch's target where it takes a branch; that this is
in the commit's last cycle, before what it stores, is the model's choice (log 121). In
the boundary's cycle it performs the boundary. PRECISE_TRAP performs the trap boundary of a failed instance (R340), and BLOCK_STALL
raises BlockStall, 0x0108, in an instance that can make no progress (R193).

A quantum ends (R99): the row closes as ready where another ready row of its bank could take its slot, else its count restarts. A forced close
(R66, R353) discards the instance, and a row that is still open becomes ready. -/
def Obligations.BlocksEnd : Prop :=
  (∀ (s : State) (core rid : Nat) (l : Slot), s.slot? core rid = some l →
    (l.phase = .commit s.cycle → l.inst.lastPass = true →
      (l.inst.exit = none → exec (.blockCommit core rid) s
        = .next ((setPhase core rid (.boundary (s.cycle + 1))).run ((commitInst core rid l.inst).run s)))
      ∧ (∀ e, l.inst.exit = some e → exec (.blockCommit core rid) s = .next ((setPhase core rid (.boundary (s.cycle + 1))).run
          ((commitInst core rid l.inst).run ((fetchNext core rid l.inst e).run s))))
      ∧ (∀ e, core < 256 → rid < 512 → l.inst.exit = some e → e.kind = .br → e.target % 16 = 0 → e.target < 2 ^ 32 → l.inst.effects = [] →
          ∃ t, exec (.blockCommit core rid) s = .next t
            ∧ (t.slot? core rid).map (fun x => (x.phase, x.next)) = some (.boundary (s.cycle + 1), some (s.fetchBlock core e.target))))
    ∧ (l.phase = .commit s.cycle → l.inst.lastPass = false → l.inst.effects = [] → ∃ t, exec (.blockCommit core rid) s = .next t ∧
        (t.slot? core rid).map (fun x => (x.phase, x.inst.pc, x.inst.pass, x.inst.start, x.inst.ins))
          = some (.running, l.inst.pc, l.inst.pass + 1, s.cycle + 2, l.inst.ins))
    ∧ (l.phase = .boundary s.cycle → l.boundaries < 64 → exec (.blockCommit core rid) s = .next ((boundary core rid l.inst).run s))
    ∧ (∀ k, l.phase = .trap s.cycle → l.inst.failed = some k → k.code ≠ 0x0804 →
      exec (.preciseTrap core rid) s = .next ((Act.all [discard core rid l.inst,
        boundaryTrap core rid k.code l.inst.pc
          { tvalid := k.tvalid, tidx := k.tidx, tpass := if headerRep l.inst.header then l.inst.pass else 0, twe := k.twe }
          ((s.row? core rid).any (·.trapBit)),
        performHeld core rid, trappedChain 64 core rid, pendingRequests core rid, afterBoundary core rid]).run s))
    ∧ (s.stalled core rid = true → ∃ t, exec (.blockStall core rid) s = .next t ∧ t.mem = s.mem ∧
        (t.slot? core rid).map (fun x => (x.phase, x.inst.failed)) = some (.trap (s.cycle + 1),
          some { code := 0x0108, tvalid := false, tidx := 0, twe := false, cycle := s.cycle, commit := true })))
  ∧ (∀ (s : State) (core rid : Nat) (l : Slot), core < 256 → rid < 512 → s.slot? core rid = some l →
    let another := (s.readyRows core (bankOf rid)).any fun r =>
      s.couldOpen core r ((s.bankSlots core (bankOf rid)).filter fun x => x.rid != rid)
    (l.phase = .boundary s.cycle → 64 ≤ l.boundaries → another = true → ∃ t, exec (.quantumEnd core rid) s = .next t
      ∧ t.code core rid = 1 ∧ t.pc core rid = s.pc core rid ∧ (t.slot? core rid).map (·.phase) = some (.closing (s.cycle + 1)))
    ∧ (l.phase = .boundary s.cycle → 64 ≤ l.boundaries → another = false → bit (s.bar 0 0x10068 8) 63 = false →
      ∃ t, exec (.quantumEnd core rid) s = .next t ∧ t.mem = s.mem ∧ (t.slot? core rid).map (fun x => (x.boundaries, x.inst.pc)) = some (0, s.pc core rid))
    ∧ (l.phase = .running → l.inst.atomicDone = false → l.inst.effects = [] → l.inst.waits = [] → l.inst.exit = none →
      (s.row? core rid).any (fun r => r.held.isEmpty) = true → bit (s.rowLe core rid 0 8) 11 = false → bit (s.rowLe core rid 0 8) 12 = false →
      s.code core rid = 2 → ∃ t, exec (.forcedClose core rid) s = .next t ∧ t.code core rid = 1 ∧ t.pc core rid = s.pc core rid
        ∧ (t.slot? core rid).map (·.phase) = some (.closing (s.cycle + 1))
        ∧ (t.row? core rid).map (·.rep) = some (if headerRep l.inst.header then l.inst.pass else 0)))

/-! ### The mesh and tasks -/

/-- A remote store arrives: its bytes in an open or claimed row are held for it, the others performed (the model's reading of R74 where a store
meets several rows, log 96), and it is acknowledged (R143), with the condition it raises. So one whose bytes lie in one such row is held whole, and one of no such row performed at once. Said without injection, where
the inbound buffers of its banks have room.

A remote atomic is performed at its core's bank unit, or held for an open row (R279, R74); with no room for it there it waits.

A store of clean bytes to consecutive local addresses that no row, armed object, queue descriptor or guard granule holds writes them, and every other byte of
memory is as before.

A store that meets an armed barrier object is refused whole, and its condition is RemoteNak, 0x0803 (R355); bytes in a tagged guard granule are not
written, and the condition is GuardGranule, 0x0805 (R377). -/
def Obligations.AccessesArrive : Prop :=
  (∀ (s : State) (k a n : Nat) (m : Msg) (bs : List PByte), s.mesh[k]? = some m → s.deliverable k = true → m.pay = .store a n bs none →
    bit (s.bar 0 0x10068 8) 63 = false → s.accepts m.dst bs = true →
    let kind := if bs.any fun b => s.controlByte m.dst b.addr then 2 else 0
    (exec (.remoteStoreArrival k) s = .next ((Act.all [dropMsg k, traceArrival m.dst m.src kind a n (!(s.heldParts m.dst noRow bs).isEmpty),
        placeStore m.dst noRow m.org bs .remote fun _ _ c => acknowledge m.dst m.org c true]).run s))
    ∧ (∀ r, r < 512 → bs ≠ [] → (∀ b ∈ bs, b.addr < 0x200000 ∧ ridOf b.addr = r ∧ s.armedAt m.dst b.addr = none) → s.holds m.dst r = true →
        s.requests m.dst bs = [] → exec (.remoteStoreArrival k) s = .next ((Act.all [dropMsg k, traceArrival m.dst m.src kind a n true,
          holdFor m.dst r (.store m.org bs .remote), acknowledge m.dst m.org none true]).run s))
    ∧ ((∀ b ∈ bs, b.addr < 0x200000 → s.holds m.dst (ridOf b.addr) = false) → exec (.remoteStoreArrival k) s = .next ((Act.all [dropMsg k,
        traceArrival m.dst m.src kind a n false, performStore m.dst m.org bs fun _ c => acknowledge m.dst m.org c true]).run s)))
  ∧ (∀ (s : State) (k : Nat) (m : Msg) (op : AtomicOp), s.mesh[k]? = some m → s.deliverable k = true → m.pay = .atomic op none →
    bit (s.bar 0 0x10068 8) 63 = false →
    let w := atomicWidth op.ty
    (s.accepts m.dst (pbytes op.addr w 0 false) = false → exec (.remoteAtomicArrival k) s = .next s)
    ∧ (s.accepts m.dst (pbytes op.addr w 0 false) = true →
    let as := (List.range w).map (op.addr + ·)
    (∀ r, s.holder m.dst as = some r → exec (.remoteAtomicArrival k) s = .next ((Act.all [dropMsg k,
        traceArrival m.dst m.src 1 op.addr w true, holdFor m.dst r (.atomic m.org op .remote), acknowledge m.dst m.org none true]).run s))
    ∧ (s.holder m.dst as = none → exec (.remoteAtomicArrival k) s = .next ((Act.all [dropMsg k,
        traceArrival m.dst m.src 1 op.addr w false, performAtomic m.dst m.org op none fun _ c => acknowledge m.dst m.org c true]).run s))))
  ∧ (∀ (s : State) (core addr : Nat) (org : Origin) (bs : List Byte), bs ≠ [] →
    let ps : List PByte := bs.zipIdx.map fun b => { addr := addr + b.2, byte := b.1, poison := false }
    (∀ b ∈ ps, s.armedAt core b.addr = none ∧ s.guarded (Space.loc core b.addr) = false ∧ s.row? core (ridOf b.addr) = none
      ∧ s.inQueue core b.addr = false) →
    let t := (performStore core org ps fun _ _ => .done).run s
    t.bytes (Space.loc core addr) bs.length = bs
    ∧ ∀ a, a < Space.loc core addr ∨ Space.loc core addr + bs.length ≤ a → t.byte a = s.byte a)
  ∧ (∀ (s : State) (core addr : Nat) (org : Origin) (k : Nat → Option Cond → Act) (b : Byte),
    let p : PByte := { addr := addr, byte := b, poison := false }
    (∀ o, s.armedAt core addr = some o → (performStore core org [p] k).run s = (k 0 (some (condOf org 0x0803 core o))).run s)
    ∧ (s.armedAt core addr = none → s.guarded (Space.loc core addr) = true →
        (performStore core org [p] k).run s = (k 0 (some (condOf org 0x0805 core addr))).run s))

/-- ACKNOWLEDGEMENT lowers the count of its row and clears its dispatch number (R143); ASYNC_CONDITION records its condition at once in ERRWORD of a row
that is not open, and holds it for the boundary of one that is (R344); one that comes with the acknowledgement of its access lowers the count too.

BARRIER_ARRIVAL, EVENT_SIGNAL and EVENT_WINDOW_STORE: an arrival, a signal and a store to an event line leave the mesh and act at their object or line,
and what they raise goes back with their acknowledgement (R143, R281, R286, R287), said without an injection. FLIP_BROADCAST flips the children at its core (R281): without any there, it does
nothing more; a child that waited for it, with CDONE set, toggles its phase, has CDONE cleared, releases its waiters and is broadcast in its turn to
the other cores of the gang. The second is said of a core with one child, armed alone, whose next phase is not complete and which lies in no read-only
field; both of an object without superstep bit.

A store to word 0x00 of a line without waiters sets KIND, the group binding and EXP and resets the line's state fields; while rows wait it is
EventBusy, 0x0406; a word that is read-only does not change (R286).

DRAIN_ARRIVAL_SEND and SUPERSTEP_ARRIVAL_SEND: an arrival held for earlier accesses of its row goes once all are acknowledged (R283, R285): at once on its
own core, else, where its step has started (R366), into the mesh. STEP_START_NOTICE lets the gang's held messages go once every core has reported its snapshot point (R366). -/
def Obligations.SignalsArrive : Prop :=
  (∀ (s : State) (k : Nat) (m : Msg) (r : RowSt), s.mesh[k]? = some m → s.deliverable k = true → m.org.core < 256 → m.org.rid < 512 →
    s.row? m.org.core m.org.rid = some r →
    let set (x : RowSt) : State := { s with mesh := s.mesh.eraseIdx k, rows := Tab.set s.rows (512 * m.org.core + m.org.rid) x }
    (m.pay = .ack none true → m.org.seq ∈ r.pending →
      exec (.acknowledgement k) s = .next (set { r with outst := r.outst - 1, pending := r.pending.erase m.org.seq }))
    ∧ (m.pay = .ack none false → exec (.acknowledgement k) s = .next { s with mesh := s.mesh.eraseIdx k })
    ∧ (∀ c, m.pay = .cond c → c.code ≠ 0x0804 → s.isOpen m.org.core m.org.rid = true →
      exec (.asyncCondition k) s = .next (set { r with held := r.held ++ [.cond c] }))
    ∧ (∀ c, m.pay = .ack (some c) true → c.code ≠ 0x0804 → c.code ≠ 0x0805 → m.org.seq ∈ r.pending → s.isOpen m.org.core m.org.rid = true →
      ∃ t, exec (.asyncCondition k) s = .next t ∧ t.mem = s.mem ∧ t.mesh = s.mesh.eraseIdx k ∧ t.row? m.org.core m.org.rid
        = some { r with outst := r.outst - 1, pending := r.pending.erase m.org.seq, held := r.held ++ [.cond c] })
    ∧ (∀ c, m.pay = .cond c → c.code ≠ 0x0804 → c.code < 2 ^ 16 → c.more = false → c.lsid < 16 → c.acore < 256 → c.ainfo < 2 ^ 21 →
      s.isOpen m.org.core m.org.rid = false → bits (s.errword m.org.core m.org.rid) 63 48 = 0 →
      ∃ t, exec (.asyncCondition k) s = .next t ∧
        let e := t.errword m.org.core m.org.rid
        bits e 63 48 = c.code ∧ bits e 45 42 = c.lsid ∧ bits e 41 34 = c.acore ∧ bits e 33 13 = c.ainfo ∧ bit e 47 = false
        ∧ bit e 46 = bit (s.errword m.org.core m.org.rid) 46 ∧ bits e 12 2 = bits (s.errword m.org.core m.org.rid) 12 2
        ∧ bit e 1 = c.isExit))
  ∧ (∀ (s : State) (k : Nat) (m : Msg), s.mesh[k]? = some m → s.deliverable k = true →
    (∀ a n b e, bit (s.bar 0 0x10068 8) 63 = false → m.pay = .arrive a n b e → exec (.barrierArrival k) s = .next ((arriveAt m.org m.dst a n b e fun c =>
        acknowledge m.dst m.org c (b == 0 && m.org.rid != 512 && m.org.seq != 0)).run { s with mesh := s.mesh.eraseIdx k }))
    ∧ (∀ c l op, bit (s.bar 0 0x10068 8) 63 = false → m.pay = .signal c l op → exec (.eventSignal k) s = .next ((signalLine m.org c l op fun x =>
        acknowledge m.dst m.org x (m.org.rid != 512)).run { s with mesh := s.mesh.eraseIdx k }))
    ∧ (∀ c off bs, bit (s.bar 0 0x10068 8) 63 = false → m.pay = .lineStore c off bs → exec (.eventWindowStore k) s = .next ((storeLine m.org c off bs fun x =>
        acknowledge m.dst m.org x false).run { s with mesh := s.mesh.eraseIdx k }))
    ∧ (∀ pc pa, m.pay = .flip pc pa → (s.coreSt m.dst).cdone = [] → bit (s.loc pc pa 1) 4 = false →
        exec (.flipBroadcast k) s = .next { s with mesh := s.mesh.eraseIdx k })
    ∧ (∀ pc pa y, m.pay = .flip pc pa → (s.coreSt m.dst).cdone = [y] → (s.coreSt m.dst).armed = [y] → y % 32 = 0 → y < 2 ^ 21 →
        s.plainObject m.dst y → s.loc m.dst (y + 0x0C) 4 = pc * 2 ^ 24 + pa → bit (s.loc pc pa 1) 4 = false →
        let w := s.loc m.dst y 1
        bit w 3 = true → bit w 5 = true → bit w 4 = false →
        s.loc m.dst (y + 8) 4 < s.loc m.dst (y + 4) 4 ∨ s.loc m.dst (y + 0x18) 8 < s.loc m.dst (y + 0x10) 8 →
        ∃ t, exec (.flipBroadcast k) s = .next t ∧ t.loc m.dst y 1 = w - 32 - w % 2 + (1 - w % 2) ∧ (t.coreSt m.dst).cdone = []
          ∧ t.mesh = s.mesh.eraseIdx k ++ (s.gangOn? m.dst).elim [] (fun g => (g.allCores.filter (· != m.dst)).map fun d =>
              { src := m.dst, dst := d, org := Origin.device m.dst, pay := .flip m.dst y, since := s.cycle })
          ∧ ∀ r, r < 512 → (s.row? m.dst r).isSome = true → rowBase r + 0x1000 ≤ y ∨ y + 32 ≤ rowBase r →
              s.waitsOn m.dst r = some (1, y, 1 - w % 2) → (t.row? m.dst r).any (·.wake) = true))
  ∧ (∀ (s : State) (org : Origin) (cluster l v : Nat) (k : Option Cond → Act), l < 64 → cluster < 16 → v < 2 ^ 32 →
    let key := lineKey cluster l
    let data (off : Nat) : List PByte := (leBytes 4 v).zipIdx.map fun b => { addr := off + b.2, byte := b.1, poison := false }
    let t := (storeLine org cluster (64 * l) (data (64 * l)) fun _ => .done).run s
    s.lineOwned cluster l org.core org.rid false = true →
    (s.le (key + 4) 2 = 0 → bits (t.le key 4) 31 30 = bits v 31 30 ∧ bits (t.le key 4) 24 16 = bits v 24 16 ∧ t.le key 4 % 65536 = v % 65536
      ∧ bits (t.le key 4) 29 25 = 0 ∧ t.le (key + 6) 2 = 0 ∧ t.le (key + 8) 4 = 0 ∧ t.le (key + 0x14) 2 = 0
      ∧ t.le (key + 0x10) 4 = s.le (key + 0x10) 4)
    ∧ (s.le (key + 4) 2 ≠ 0 → (storeLine org cluster (64 * l) (data (64 * l)) k).run s
        = (k (some (condOf org 0x0406 org.core (lineInfo cluster l)))).run s)
    ∧ ∀ off, off < 64 → off ≠ 0 → off ≠ 0x0C →
        (storeLine org cluster (64 * l + off) (data (64 * l + off)) k).run s = (k none).run s)
  ∧ (∀ (s : State) (k a n b e : Nat) (m : Msg), s.mesh[k]? = some m → m.pay = .arrive a n b e → m.held = true → m.waits ≠ 0 →
    s.ackedBelow m.org.core m.org.rid m.waits = true →
    (m.dst ≠ m.src → s.stepHeld m.org = false →
      exec (.drainArrivalSend k) s = .next { s with mesh := s.mesh.eraseIdx k ++ [{ m with held := false, since := s.cycle }] }
      ∧ exec (.superstepArrivalSend k) s = .next { s with mesh := s.mesh.eraseIdx k ++ [{ m with held := false, since := s.cycle }] })
    ∧ (m.dst = m.src →
      let done := (arriveAt m.org m.dst a n b e fun c => acknowledge m.dst m.org c (m.org.seq != 0)).run { s with mesh := s.mesh.eraseIdx k }
      exec (.drainArrivalSend k) s = .next done ∧ exec (.superstepArrivalSend k) s = .next done))
  ∧ (∀ (s : State) (g : Gang), s.gang? g.id = some g → g.superstep = true → (∀ c ∈ g.allCores, c ∈ g.snapshots) →
    (∀ x ∈ s.rows, x.2.gang = g.id → x.2.arrived.length ≤ 1) →
    ∃ t, exec (.stepStartNotice g.id) s = .next t ∧ t.mem = s.mem ∧ (t.gang? g.id).map (·.snapshots) = some []
      ∧ (∀ x ∈ t.rows, x.2.gang = g.id → x.2.arrived = [])
      ∧ ∀ m ∈ t.mesh, m.org.gang = g.id → m.waits = 0 → m.org.core < 256 → m.org.rid < 512 →
          (s.row? m.org.core m.org.rid).any (fun r => r.gang == g.id) = true → m.held = false)

/-- Waits of an instance: a window load that its conditions allow is served (R111), a queue operation is tried at its bank unit (R290), and a search claims
its next idle row, once the tiles that its own block declares before the fork are known (R216, log 131); what was held for that row before the claim
stays ahead of it.

FORK_SEARCH_COMPLETE (R216): a FORKR that has found its rows takes its join cell and holds them for the boundary; with none it raises ForkNoRows,
0x0206, in the commit class (R215). Said of a search that has what it wants, or that finds no idle row.

A claimed row that its start message reaches becomes a ready task row (R216): s0 and s1 hold its subrange, s2 its task and s3 the number of tasks, PC its
entry and LINK its join cell; a release makes it unclaimed again. Said of a fork without views, with nothing held for the row: what was held before the claim is performed first.

MERGE_STEP (R299): a chain from another core takes its place at the merge unit where its message reaches it (R333); the first of two chains to reach
a node marks it and ends; a chain of a poisoned join cell only ends its task (R362). -/
def Obligations.WaitsAndTasks : Prop :=
  (∀ (s : State) (core rid index : Nat) (l : Slot), s.slot? core rid = some l →
    (∀ i a b pred, (l.inst.waits.find? fun w => w.1 == index) = some (index, .window i a b pred) →
      let xs := pieces (predMask i pred) (accesses (memForm i) a b (predMask i pred))
      exec (.windowLoadServe core rid index) s
        = .next (if s.windowReady core rid xs then (serveLoad core rid index i a b pred).run s else s))
    ∧ (∀ fn d data pred ticket, (l.inst.waits.find? fun w => w.1 == index) = some (index, .queue fn d data pred ticket) → l.phase = .running →
        l.inst.lowerFired ((l.inst.shapeAt index).lsid.getD 0) = true →
        (∀ n, ticket = some n →
          exec (.queueOpPerform core rid index) s = .next ((queueNow core rid index (l.inst.shapeAt index) fn d data pred n).run s))
        ∧ (ticket = none →
          exec (.queueOpPerform core rid index) s = .next ((queueArrive core rid index (l.inst.shapeAt index) fn d data pred).run s)))
    ∧ (∀ want found since r a, l.inst.waits = [(index, .search want found since)] → found.length < want →
        l.inst.viewsKnown index = true → s.nextIdle core rid (s.searchSize core rid index) found = some r →
        s.poolPlace r.1 (s.searchSize core rid index) 64 = some a →
        ∃ t x, exec (.forkClaim core rid) s = .next t ∧ t.mem = s.mem ∧ s.row? r.1 r.2 = some x
          ∧ t.row? r.1 r.2 = some { x with claim := some (core, rid), early := x.held.length, view := a }
          ∧ (t.slot? core rid).map (·.inst.waits) = some [(index, .search want (found ++ [r]) since)]))
  ∧ (∀ (s : State) (core rid index want since : Nat) (found : List (Nat × Nat)) (l : Slot) (e : Exit), s.slot? core rid = some l →
    l.inst.search? index = some (want, found, since) → l.inst.exit = some e → e.index = index →
    l.inst.viewsKnown index = true → want ≤ found.length ∨ s.nextIdle core rid (s.searchSize core rid index) found = none →
    (∀ a, found ≠ [] → s.poolPlace core 16 16 = some a → ∃ t, exec (.forkSearchComplete core rid index) s = .next t ∧ t.mem = s.mem
      ∧ (t.slot? core rid).map (·.inst.exit) = some (some { e with tasks := found, cell := a }) ∧ (a, 16) ∈ (t.coreSt core).pool)
    ∧ (found = [] → l.inst.failed = none → ∃ t, exec (.forkSearchComplete core rid index) s = .next t ∧ t.mem = s.mem
      ∧ (t.slot? core rid).map (·.inst.failed)
        = some (some { code := 0x0206, tvalid := true, tidx := index, twe := false, cycle := s.cycle, commit := true })))
  ∧ (∀ (s : State) (k : Nat) (m : Msg) (r : RowSt), s.mesh[k]? = some m → s.deliverable k = true → m.dst < 256 →
    (∀ rid lo n task tasks jcore jcell entry, m.pay = .start rid lo n task tasks jcore jcell entry → rid < 512 →
      s.row? m.dst rid = some r → r.held = [] → r.early = 0 → r.view + 64 ≤ 0x200000 → (rowBase rid + 0x1000 ≤ r.view ∨ r.view + 64 ≤ rowBase rid) →
      (s.forkAt jcore jcell).elim [] (·.slots) = [] → lo < 2 ^ 64 → n < 2 ^ 64 → task < 256 → tasks ≤ 256 → 1 ≤ tasks → jcore < 256 →
      jcell < 2 ^ 21 → entry < 2 ^ 32 →
      ∃ t, exec (.taskStart k) s = .next t ∧ t.code m.dst rid = 1 ∧ t.pc m.dst rid = entry
        ∧ t.rowLe m.dst rid 0x80 8 = lo ∧ t.rowLe m.dst rid 0x88 8 = n ∧ t.rowLe m.dst rid 0x90 8 = task ∧ t.rowLe m.dst rid 0x98 8 = tasks
        ∧ t.link m.dst rid = jcore * 2 ^ 56 + tasks * 2 ^ 47 + task * 2 ^ 39 + jcell
        ∧ (t.row? m.dst rid).map (·.claim) = some none)
    ∧ (∀ rid, m.pay = .release rid → rid < 512 → s.row? m.dst rid = some r → r.held = [] →
      ∃ t, exec (.claimRelease k) s = .next t ∧ t.mem = s.mem ∧ (t.row? m.dst rid).map (fun x => (x.claim, x.view)) = some (none, 0)
        ∧ t.mesh = s.mesh.eraseIdx k))
  ∧ (∀ (s : State) (k c a i p : Nat) (m : Msg) (fk : ForkSt), s.mesh[k]? = some m → s.deliverable k = true → m.pay = .merge c a i (p + 1) →
    s.forkAt c a = some fk → s.chainTurn k = true →
    let node := nodeAt p 0 fk.tasks.length i
    let left := fk.tasks.getD node.1 (0, 0, 0)
    (m.waits = 0 → exec (.mergeStep k) s = .next { s with mesh := s.mesh.set k { m with waits := 1, since := s.cycle } })
    ∧ (m.waits ≠ 0 → s.loc c (a + 7) 1 = 2 → exec (.mergeStep k) s = .next ((dropTask fk i).run { s with mesh := s.mesh.eraseIdx k }))
    ∧ (m.waits ≠ 0 → s.loc c (a + 7) 1 ≠ 2 → bit (s.loc left.1 left.2.2 1) p = false →
        exec (.mergeStep k) s = .next ((Act.all [putLoc left.1 left.2.2 1 (s.loc left.1 left.2.2 1 + 2 ^ p), dropMsg k, chainEnd fk]).run s)))

/-! ### The matrix array -/

/-- R256: a command's checks at the arbiter, in their order: a capability of another core, of another power cycle or tenant, of a free tile or of an
earlier generation is CapInvalid, 0x0503; one without the command's right CapRights, 0x0504; and only a command that passes every check
has the types and the shape that its rule asks for.

A minted capability of a tile's owner passes the check of its core, its tenant, its tile and its generation, with each of its rights (R255). -/
def Obligations.Capabilities : Prop :=
  (∀ (s : State) (core : Nat) (c : OpaCmd), c.poisoned = false →
    let t := c.tile
    let good : Prop := bits c.cap 63 56 = core ∧ c.cap % 2 ^ 32 = s.capCheck (c.cap / 2 ^ 32) c.tenant ∧ bit c.cap (52 + t) = true
      ∧ s.tileState core t ≠ 0 ∧ bits c.cap 47 32 = s.tileGen core t ∧ s.tileTenant core t = c.tenant ∧ s.unpinning core t = false
    (¬ good → s.opaCheck core c = some 0x0503)
    ∧ (good → bit c.cap c.right = false → s.opaCheck core c = some 0x0504)
    ∧ (good → bit c.cap c.right = true → c.typesOk = false → s.opaCheck core c = some 0x0505)
    ∧ (good → bit c.cap c.right = true → c.typesOk = true → s.shapeOk core c = false → s.opaCheck core c = some 0x0506)
    ∧ (s.opaCheck core c = none → good ∧ bit c.cap c.right = true ∧ c.typesOk = true ∧ s.shapeOk core c = true ∧ c.bar % 32 = 0))
  ∧ (∀ (s : State) (core tile right gen tenant : Nat), core < 256 → tile < 4 → right < 4 → gen < 2 ^ 16 →
    let cap := s.mintCap core (2 ^ tile) (2 ^ right) gen tenant
    bits cap 63 56 = core ∧ bit cap (52 + tile) = true ∧ bit cap (48 + right) = true ∧ bits cap 47 32 = gen
    ∧ cap % 2 ^ 32 = s.capCheck (cap / 2 ^ 32) tenant ∧ ∀ other, other < 4 → other ≠ right → bit cap (48 + other) = false)

/-- An arriving command that passes the checks of R256 joins the queue with the next sequence number and is acknowledged; QCNT of its tile rises by 1, and
the watermark of a tile that it writes falls to 0 (R111, R257). One that fails is dropped, and its condition goes back. A full queue leaves
it waiting. Said without an injection, a poisoned ownership entry or a touched guard granule, of a command from the core's own row, not of the copy of one that reaches a paired gang.

MXMUL, MXZ and PLDLT start when the earlier commands allow and have their result ready group by group (R260, R262, R263, R267); MXDRN and PLRD read
their scales, and TQ, once and in full (R260). That operands are read, and the result formed, in the cycle of the start is the model's choice (log 54).
PLPIN pins a
transient tile and PLUNP frees a pinned one, whose GEN rises (R266). -/
def Obligations.CommandsStart : Prop :=
  (∀ (s : State) (k : Nat) (m : Msg) (c : OpaCmd) (r : RowSt), s.mesh[k]? = some m → s.deliverable k = true → m.pay = .opa c → c.op ≠ 0 →
    c.entry = none → m.org.twin = none → m.org.copy = false → m.dst = m.org.core → m.dst < 256 → m.org.rid < 512 → s.row? m.dst m.org.rid = some r → c.tile < 4 →
    bit (s.bar 0 0x10068 8) 63 = false → s.ownPoisoned m.dst c.tile = false →
    let core := m.dst
    let st := s.coreSt core
    (32 ≤ st.opa.length → exec (.opaCommandAccept k) s = .next s)
    ∧ (st.opa.length < 32 → s.opaCheck core c = none → ∃ t, exec (.opaCommandAccept k) s = .next t
        ∧ (t.coreSt core).opa = st.opa ++ [.fresh st.opaSeq s.cycle c.tile m.org c]
        ∧ (t.coreSt core).opaSeq = (st.opaSeq + 1) % 2 ^ 32
        ∧ (s.qcnt core c.tile + 1 < 2 ^ 16 → t.qcnt core c.tile = s.qcnt core c.tile + 1)
        ∧ t.wmark core c.tile = (if c.writes then 0 else s.wmark core c.tile) ∧ t.tileGen core c.tile = s.tileGen core c.tile
        ∧ t.mesh = s.mesh.eraseIdx k)
    ∧ (∀ code, st.opa.length < 32 → s.opaCheck core c = some code → code ≠ 0x0804 → s.isOpen core m.org.rid = true →
        ∃ t, exec (.opaCommandAccept k) s = .next t ∧ t.mem = s.mem ∧ (t.coreSt core).opa = st.opa
          ∧ (t.row? core m.org.rid).map (·.held) = some (r.held ++ [.cond (condOf m.org code core (c.info c.tile))])))
  ∧ (∀ (s : State) (core seq : Nat) (e : OpaEntry), core < 256 → s.opaEntry core seq = some e → s.opaReady core e = true → e.tile < 4 →
    bit (s.bar 0 0x10068 8) 63 = false →
    (e.cmd.op = 0x71 ∨ e.cmd.op = 0x73 ∨ e.cmd.op = 0x75 → s.guardTouched core e.cmd = none → ∃ t, exec (.opaCommandStart core seq) s = .next t ∧ t.mem = s.mem
      ∧ t.opaEntry core seq = some { e with
          started := some s.cycle, work := s.newTile core e.cmd [], marks := s.newMarks core e.cmd [] false })
    ∧ (e.cmd.op = 0x72 ∨ e.cmd.op = 0x76 → s.guardTouched core e.cmd = none → ∃ t src marks, exec (.opaCommandStart core seq) s = .next t ∧ t.mem = s.mem
      ∧ t.opaEntry core seq = some { e with started := some s.cycle, src := src, srcMarks := marks }
      ∧ (e.cmd.op = 0x76 → src = s.bytes (Space.loc core (tidBase (e.cmd.img 0))) (tidSpan (e.cmd.img 0) 127))
      ∧ (e.cmd.op = 0x72 → tidSmode (e.cmd.img 0) = 2 → src = s.bytes (Space.loc core (tidSbase (e.cmd.img 0))) (4 * (e.cmd.first + e.cmd.nrows))))
    ∧ (e.cmd.op = 0x74 → e.cmd.fill = false → s.tileState core e.tile = 1 → ∃ t, exec (.opaCommandStart core seq) s = .next t
      ∧ t.tileState core e.tile = 2 ∧ t.tileGen core e.tile = s.tileGen core e.tile)
    ∧ (e.cmd.op = 0x74 → e.cmd.fill = true → s.tileState core e.tile = 2 → s.gangOn? core = none →
      ∃ t, exec (.opaCommandStart core seq) s = .next t
      ∧ t.tileState core e.tile = 0 ∧ t.tileGen core e.tile = (s.tileGen core e.tile + 1) % 2 ^ 16))

/-- A group of a writing command becomes final (R260): its 16 tile rows hold the result, the other rows are as they were, and the watermark rises to
them where no later writer is accepted on the tile (R111). Said without poison.

R262: an MXMUL of I8x4 operands sums its products exactly modulo 2^32 onto the accumulator, or with .ovr onto 0; MXZ leaves 0 (R263). -/
def Obligations.CommandResults : Prop :=
  (∀ (s : State) (core seq : Nat) (e : OpaEntry), core < 256 → s.opaEntry core seq = some e → e.tile < 4 → e.cmd.writes = true → e.done < 8 →
    (e.finalAt e.done).any (· ≤ s.cycle) = true → e.failed = false → (∀ a, 0x01200000 ≤ a → s.inQueue core a = false) → s.pausedFill core e = false → s.poison = [] → e.marks = [] → (e.cmd.op = 0x77 → e.cmd.mem = true) →
    ∃ t, exec (.opaGroupFinal core seq) s = .next t
      ∧ (∀ i j, i < 128 → j < 128 → t.accElem core e.tile i j =
          if 16 * e.done ≤ i ∧ i < 16 * e.done + 16 then e.work.getD (128 * i + j) 0 % 2 ^ 32 else s.accElem core e.tile i j)
      ∧ t.opaEntry core seq = some { e with done := e.done + 1 }
      ∧ ((((s.coreSt core).opa.dropWhile fun x => x.seq != seq).drop 1).any (fun x => x.tile == e.tile && x.cmd.writes) = false →
          t.wmark core e.tile = 16 * (e.done + 1)))
  ∧ (∀ (s : State) (core : Nat) (c : OpaCmd) (i j : Nat), tidType (c.img 0) = 4 → tidType (c.img 1) = 4 → tidType c.acc = 0 →
    let a (n : Nat) : Int := signed 8 (s.elemAt core (c.img 0) (tidA (c.img 0) i (c.k0 + n)))
    let b (n : Nat) : Int := signed 8 (s.elemB core (c.img 1) (c.k0 + n) j)
    let c0 : Int := if bit c.imm 0 then 0 else s.accElem core c.tile i j
    s.mulElem core c i j % 2 ^ 32 = wrap 32 (c0 + ((List.range c.kn).map fun n => a n * b n).sum)
    ∧ (c.op = 0x73 → s.newTile core c [] = List.replicate 16384 0))

/-- A command's last group done, it completes: SEQ of its tile is its sequence number, QCNT falls by 1 and it leaves the queue (R257, R260). A fill
that succeeds leaves SEQ as it was: so R269 has it against R257 and R260, and that the model follows R269 is its choice (log 157).

A window store whose tile no earlier command or window store works on writes its bytes (R111); the reading of a drain's group begins once the writers
before it have made it final, and each of its rows is written, to be performed and counted, once it has been read and the inbound buffers have room for it and for
what it adds to the histogram (R74, R260, R261, R264, R265). -/
def Obligations.CommandsEnd : Prop :=
  (∀ (s : State) (core seq : Nat) (e : OpaEntry), core < 256 → s.opaEntry core seq = some e → e.tile < 4 → e.seq < 2 ^ 32 → e.cmd.op ≠ 0 → e.failed = false →
    (e.cmd.writes = true ∧ e.done = 8) ∨ (e.cmd.drains = true ∧ e.cmd.mem = false ∧ e.started.isSome = true ∧ e.done = e.cmd.groups ∧ e.parts = []) →
    s.tileState core e.tile = 2 →
    ∃ t, exec (.opaCommandComplete core seq) s = .next t
      ∧ t.le (ownKey core e.tile + 20) 4 = (if e.cmd.op = 0x77 ∧ e.cmd.fill = true then s.le (ownKey core e.tile + 20) 4 else seq)
      ∧ t.qcnt core e.tile = s.qcnt core e.tile - 1 ∧ t.opaEntry core seq = none)
  ∧ (∀ (s : State) (core seq : Nat) (e : OpaEntry), core < 256 → s.opaEntry core seq = some e →
    (∀ (addr : Nat) (bs : List Byte), e.cmd.op = 0 → e.tile < 4 → (s.opaBefore core seq).all (fun x => x.tile != e.tile) = true →
      (s.coreSt core).clears = [] → bs ≠ [] → 0x01200000 ≤ addr → addr + bs.length ≤ 0x01240000 →
      e.cmd.bytes = (bs.zipIdx.map fun b => { addr := addr + b.2, byte := b.1, poison := false }) →
      s.tileState core e.tile = 2 → (∀ a, 0x01200000 ≤ a → s.inQueue core a = false) →
      ∃ t, exec (.windowStorePerform core seq) s = .next t ∧ t.bytes (Space.loc core addr) bs.length = bs ∧ t.opaEntry core seq = none)
    ∧ (let c := e.cmd
       let i := c.firstRow + e.row
       let n := i / 16 - c.firstRow / 16
       let bs := s.rowOut core e i
       let x := c.extent i bs
       let due : Prop := e.row < c.rowCount ∧ e.rowDue i s.cycle = true
       c.drains = true → c.mem = false → e.started.isSome = true →
       (s.groupBegins core e = true → ¬ due → bit (s.bar 0 0x10068 8) 63 = false →
         ∃ t, exec (.drainGroupWrite core seq) s = .next t ∧ t.mem = s.mem ∧ t.opaEntry core seq = some { e with begun := e.begun ++ [s.cycle] })
       ∧ (s.groupBegins core e = false → due → s.hasRooms core [bs, s.binBytes core e i] = true →
         exec (.drainGroupWrite core seq) s = .next ((Act.all [
           modOpa core seq fun y => { y with
             row := y.row + 1, done := if (c.groupRows n).getLast? == some i then n + 1 else y.done
             parts := if (c.groupRows n).head? == some i then y.parts ++ [(n, (c.groupRows n).length, 0)] else y.parts },
           histogram core e n i,
           engineStore core e.org x.1 x.2 bs (.drain seq n) fun cnt parts conds =>
             .all [.each conds (tellDrain core seq n e.org), drainPart core seq n ((parts : Int) - 1) cnt]]).run s))
       ∧ (s.groupBegins core e = false → ¬ due ∨ s.hasRooms core [bs, s.binBytes core e i] = false → exec (.drainGroupWrite core seq) s = .next s)))

/-! ### Global memory -/

/-- A miss starts a walk (R311), or joins the outstanding page tag of its region (R313); a walk that ends in an invalid entry waits for a page request, one that faults ends its access with
TranslationFault, 0x0801 (R309, R380); an access is translated by its leaf, whose page its physical address lies in (R308); where the
leaf carries CONT, the entries of its run agree as R309 has it. Said of the only access there is, none of whose pages the TLBs hold, where no
injection is armed.

The faults of a leaf (R309), of the kinds 3 to 7 of R380: a reserved ORD, a base that is not aligned to its level, a key slot that the function may
not use, and the permission that the access needs. Which is reported of several is the model's choice (log 140): the first in this order.

A page request takes the lowest free tag, writes its record at PRQBASE + 32 × TAIL, moves TAIL on and raises vector 2 (R313); the answer of STATUS 0 sends its accesses to walk again, and any
other, 1 to 3, ends them with PageRefused, 0x0802, with the level of the entry that was not valid (R313, R380, R381). Said of one access.

TLBINV removes the translations that it names from every TLB, at once, and is busy until what used them is done (R312). -/
def Obligations.Translation : Prop :=
  (∀ (s : State) (a : Acc), s.accs = [a] → bit (s.bar 0 0x10068 8) 63 = false →
    (a.state = .miss → s.cachedXlat a.core a.func a.va = none → (s.func a.func).tags = [] →
      let c := s.clusterSt (clusterOf a.core)
      exec (.walkStart a.id) s = .next { s with
        clusters := Tab.set s.clusters (clusterOf a.core) { c with walkSeq := c.walkSeq + 1 }
        accs := [{ a with state := .walk, turn := (c.walkSeq, c.walkSeq), since := s.cycle, inval := false, absent := 0 }] })
    ∧ (∀ tag level, a.state = .miss → s.cachedXlat a.core a.func a.va = none →
      (s.func a.func).tags = [{ tag := tag, va := a.va / 65536, level := level }] →
      exec (.walkStart a.id) s = .next { s with accs := [{ a with state := .page (some tag), since := s.cycle }] })
    ∧ (∀ level, a.state = .walk → s.walk a.func a.va = .absent level → (s.func a.func).tags = [] → exec (.walkComplete a.id) s
      = .next { s with accs := [{ a with state := .page none, absent := level, since := s.cycle }] })
    ∧ (∀ kind level, a.state = .walk → s.walk a.func a.va = .fault kind level → exec (.walkComplete a.id) s
      = .next ((faultAcc a 0x0801 (kind + 16 * level + 64 * (a.elem % 2 ^ 15))).run s))
    ∧ (∀ e level, a.state = .walk → a.inval = false → s.walk a.func a.va = .leaf e level → s.leafFault a.func level e a.write = none →
      (bit e 2 = true → let run := a.va / (16 * leafSize level) * (16 * leafSize level)
        ∀ j, j < 16 → ∃ e', s.walk a.func (run + j * leafSize level) = .leaf e' level ∧ e' / 2 ^ 52 = e / 2 ^ 52 ∧ e' % 4096 = e % 4096
          ∧ bits e' 51 12 * 4096 + a.va / leafSize level % 16 * leafSize level = bits e 51 12 * 4096 + j * leafSize level) →
      ∃ t, exec (.walkComplete a.id) s = .next t ∧ t.mem = s.mem ∧ t.accs = [{ a with
        pa := bits e 51 12 * 4096 + a.va % leafSize level, key := s.keyOf (bits e 61 52), ord := bits e 7 6, cached := bit e 5,
        gtp := bit e 8, state := .ready, since := s.cycle }]))
  ∧ (∀ (s : State) (f level e : Nat) (write : Bool), (∀ i, i < 64 → s.leaseState i = 0) →
    let pa := bits e 51 12 * 4096
    let ord : Prop := bits e 7 6 = 3
    let base : Prop := pa % (4096 * 512 ^ level) ≠ 0
    let key : Prop := isHost pa = false ∧ s.keyUsable (bits e 61 52) f = false
    (ord → s.leafFault f level e write = some 3)
    ∧ (¬ ord → base → s.leafFault f level e write = some 4)
    ∧ (¬ ord → ¬ base → key → s.leafFault f level e write = some 5)
    ∧ (¬ ord → ¬ base → ¬ key → s.leafFault f level e write
        = if write then (if bit e 4 then none else some 7) else (if bit e 3 then none else some 6)))
  ∧ (∀ (s : State) (a : Acc), s.accs = [a] → a.core < 256 →
    (a.state = .page none → (s.func a.func).tags = [] → s.ringRoom a.func 0x60 ≠ 0 → ∃ t, exec (.pageRequestRecord a.id) s = .next t
      ∧ (a.func < 1024 → let c := s.bar a.func 0x60 8
          t.bytes (hostKey (s.bar a.func 0x58 8 + 32 * bits c 31 16)) 32
            = leBytes 2 0 ++ leBytes 1 a.write.toNat ++ leBytes 1 0 ++ leBytes 2 a.core ++ leBytes 2 0 ++ leBytes 8 (a.va % 2 ^ 48)
              ++ leBytes 8 ((s.entry? a.core a.entry).elim 0 (·.org.word)) ++ leBytes 8 0
          ∧ bits (t.bar a.func 0x60 8) 31 16 = (bits c 31 16 + 1) % bits c 47 32)
      ∧ t.accs = [{ a with state := .page (some 0) }] ∧ (t.func a.func).tags = [{ tag := 0, va := a.va / 65536, level := a.absent }]
      ∧ (t.func a.func).msix = (s.func a.func).msix ++ [2])
    ∧ (∀ tag level, a.state = .page (some tag) → s.barOpen a.func = true → (s.func a.func).tags = [{ tag := tag, va := a.va / 65536, level := level }] →
      (∃ t, exec (.prresp a.func tag 0) s = .next t ∧ t.mem = s.mem ∧ (t.func a.func).tags = []
        ∧ t.accs = [{ a with state := .miss, since := s.cycle }])
      ∧ ∀ status, 1 ≤ status → status < 4 → exec (.prresp a.func tag status) s
        = .next ((faultAcc a 0x0802 (16 * level + 64 * (a.elem % 2 ^ 15))).run { s with funcs := Tab.set s.funcs a.func { s.func a.func with tags := [] } })))
  ∧ (∀ (s : State) (all : Bool) (f va : Nat), ∃ t, exec (.tlbinv all f va) s = .next t
    ∧ bit (t.bar 0 0x10020 4) 0 = true ∧ t.invals.length = s.invals.length + 1
    ∧ (∀ c ∈ t.cores, ∀ x ∈ c.2.tlb, ¬ (x.func = f ∧ (all = true
        ∨ (x.va ≤ va / 4096 * 4096 % 2 ^ 48 ∧ va / 4096 * 4096 % 2 ^ 48 < x.va + x.size))))
    ∧ (∀ c ∈ t.clusters, ∀ x ∈ c.2.tlb, ¬ (x.func = f ∧ (all = true
        ∨ (x.va ≤ va / 4096 * 4096 % 2 ^ 48 ∧ va / 4096 * 4096 % 2 ^ 48 < x.va + x.size))))
    ∧ (s.invals.all s.invalDone = true → ∃ u, exec .tlbinvDone s = .next u ∧ u.invals = [] ∧ bit (u.bar 0 0x10020 4) 0 = false))

/-- A command's chunk starts when R123 allows: it is in flight with its deadline, and its accesses are translated as they start; a chunk whose accesses are
all done is counted, and the command ends with its last chunk, freeing its entry, or goes on to the next (R122 to R124). The end is said of a command that is
not performed with its partner in a paired gang (R363).

Reads of host memory (R383): data, poisoned data, which lands with its mark on every byte, UR and CA, and no completion within 50 ms, which are
RemoteNak, 0x0803, with the reason 5 or 6; a table read of a walk that fails, or whose data is poisoned (the model's reading, log 137), is
TranslationFault, 0x0801, of kind 8 at a level that the walk reads (R380). Said where no injection is armed. -/
def Obligations.ChunksAndHostReads : Prop :=
  (∀ (s : State) (core entry : Nat) (h : HEntry), s.entry? core entry = some h →
    (s.chunkReady core h = true → s.pairOf core h.org.rid = none → exec (.chunkStart core entry) s = .next ((startChunk core entry h).run s))
    ∧ (h.kind = 1 → h.acq = false → s.entry? core entry = some h → ∃ u, u = (startChunk core entry h).run s
        ∧ (u.entry? core entry).map (fun x => (x.inFlight, x.chunk, x.deadline)) = some (true, true, s.time / 64 + (s.coreSt core).hyctl))
    ∧ (h.chunk = true → h.await = false → h.pairEntry = none → (s.accs.any fun a => a.core == core && a.entry == entry) = false → h.rbar = 0 → h.sbar = 0 →
        (h.lastChunk = true → h.opa = none → h.late = [] → h.org.seq = 0 → ∃ t, exec (.chunkComplete core entry) s = .next t
          ∧ t.mem = s.mem ∧ t.entry? core entry = none)
        ∧ (h.lastChunk = false → h.stopped = false → (s.coreSt core).stopping = none → ∃ t, exec (.chunkComplete core entry) s = .next t
          ∧ t.mem = s.mem ∧ t.entry? core entry = some { h with prog := h.prog + 65536, chunk := false })))
  ∧ (∀ (s : State) (a : Acc), s.acc? a.id = some a → a.state = .host false → bit (s.bar 0 0x10068 8) 63 = false →
    exec (.hostReadCompletion a.id 0) s = .next ((performAcc a).run s)
    ∧ (isHost a.pa = true → exec (.hostReadCompletion a.id 3) s
      = .next ((landRead a ((List.range a.size).map fun i => (s.unitByte none (Space.phys (a.pa + i)), true))).run s))
    ∧ (∀ status, status = 1 ∨ status = 2 → exec (.hostReadCompletion a.id status) s = .next ((finishAcc a.id 0 [a.cond 0x0803 5]).run s))
    ∧ (a.since + 50000000 ≤ s.time → exec (.hostReadTimeout a.id) s = .next ((finishAcc a.id 0 [a.cond 0x0803 6]).run s))
    ∧ (s.time < a.since + 50000000 → exec (.hostReadTimeout a.id) s = .next s))
  ∧ (∀ (s : State) (a : Acc) (status : Nat), s.accs = [a] → a.state = .walk → s.walkReads a.func a.va ≠ [] → 1 ≤ status → status < 4 →
    ∃ level, level ∈ s.walkReads a.func a.va ∧ exec (.hostReadCompletion a.id status) s
      = .next ((faultAcc a 0x0801 (8 + 16 * level + 64 * (a.elem % 2 ^ 15))).run { s with freeCtr := s.freeCtr + 1 }))

/-- A write within a 64-byte unit leaves its bytes there, and a read through the same key gives them back; a read through another key, or through none,
sees noise (R310): a free value, over the keys, the address and the unit's data (log 8). Said where no stack is quarantined. -/
def Obligations.KeyedMemory : Prop :=
  ∀ (s : State) (key pa : Nat) (bs : List Byte), pa / 64 = (pa + bs.length - 1) / 64 → bs ≠ [] → pa < 2 ^ 39 → s.deadRegions = [] →
    s.poison = [] → s.rehome = [] →
    let t := (physWrite (some key) pa (bs.map fun b => (b, false))).run s
    t.physRead (some key) false pa bs.length = bs.map (fun b => (b, false))
    ∧ ∀ other, other ≠ some key → t.physRead other false pa bs.length
        = (List.range bs.length).map fun i =>
            (Config.noise (some key) (other.getD 0) (Space.phys (pa + i)) (t.bytes (Space.phys (pa / 64 * 64)) 64), false)

/-- A request is admitted to its bank, marked urgent from 4 units before its deadline, and served where its bank may serve it; LPDDR serves each die's
oldest (R130 to R132, R135). Said of the only access there is, in a region that is live and not filling.

REFMARK (R133, R134, R376): regions that are not live read as zeros without poison, a write or a mark makes one live again, filled with zeros, and its
accesses wait for the fill. Said of one region and without a quarantine.

Scrubs, refreshes and remaps (R371, R378, R390): a patrol scrub without an injection finds nothing and starts its stack's counts anew; a neighbour refresh
is counted and starts the row's count anew (the model's counting, log 93), and extends by the full 160 cycles that it may take (the model's reading,
log 117) the bound of what waits in its bank; a remap takes a spare bank row of the stack (the model pools them, log 102), and the row's accesses wait
until it is copied; a row that lies wholly in regions that are not live is not remapped (R376).

QUARANTINE is refused while a gang is live or the regions do not fit (R392; beside a stack that is quarantined, the free slots: log 92); else the stack's part of each live region takes a slot of its own of the
re-home area, and the end of the move is recorded (R393). -/
def Obligations.HbmStacks : Prop :=
  (∀ (s : State) (a : Acc), s.accs = [a] → bit (s.bar 0 0x10068 8) 63 = false →
    (a.state = .admission (stackOf a.pa) → s.streaks = [] → exec (.hbmAdmit a.id) s = .next { s with
        accs := [{ a with state := .bank (stackOf a.pa) (bankOfPa a.pa % 64), since := s.cycle }]
        streaks := [(bankOfPa a.pa, a.func, if s.rowHit a then 1 else 0)] })
    ∧ (∀ d, a.deadline = some d → d ≤ s.time / 64 + 4 → exec (.deadlineUrgent a.id) s = .next { s with accs := [{ a with urgent := true }] })
    ∧ (a.state = .bank (stackOf a.pa) (bankOfPa a.pa % 64) → s.remapping = [] → regionOf a.pa ∉ s.filling → regionOf a.pa ∉ s.deadRegions →
        s.quarantined (stackOf a.pa) = false → a.deadline = none → a.gone = false → exec (.hbmServe a.id) s = .next ((performAcc a).run ((activate a).run s)))
    ∧ (a.state = .lpddr → a.gone = false → isHbm a.pa = false ∨ regionOf a.pa ∉ s.filling ∧ regionOf a.pa ∉ s.deadRegions ∧ a.write = false →
        exec (.lpddrServe a.id) s = .next ((performAcc a).run s)))
  ∧ (∀ (s : State) (m : Nat), m < 262144 → s.bar 0 0x10070 1 = 0 → s.rehome = [] →
    (∃ t, exec (.refmarkNotLive m 0) s = .next t ∧ t.mem = s.mem ∧ m ∈ t.deadRegions
      ∧ ∀ key i, i < 2 ^ 21 → t.physRead key false (m * 2 ^ 21 + i) 1 = [(0, false)])
    ∧ (m ∈ s.deadRegions → ∃ t, exec (.refmarkLive m 0) s = .next t ∧ m ∉ t.deadRegions ∧ m ∈ t.filling
      ∧ ∀ i, i < 2 ^ 21 → t.byte (Space.phys (m * 2 ^ 21 + i)) = 0)
    ∧ ∃ t, exec (.zeroFillComplete m) s = .next t ∧ t.mem = s.mem ∧ m ∉ t.filling ∧ ∀ a ∈ t.accs, a.state ≠ .fill m)
  ∧ (∀ (s : State) (stack bank row : Nat), stack < 8 → bank < 64 → row < 2 ^ 32 → bit (s.bar 0 0x10068 8) 63 = false →
    (∃ t, exec (.patrolScrub stack) s = .next t ∧ t.mem = s.mem ∧ ∀ e ∈ t.rowErrors, e.1 / 2 ^ 38 ≠ stack)
    ∧ (∃ t, exec (.neighbourRefresh stack bank row) s = .next t
      ∧ t.le (hbmstat stack 0) 4 = min (s.le (hbmstat stack 0) 4 + 1) 0xFFFFFFFF
      ∧ (∀ e ∈ t.activations, e.1 ≠ bankRow (64 * stack + bank) row)
      ∧ ∀ a ∈ t.accs, a.banked = some (64 * stack + bank) → ∃ b ∈ s.accs, a = { b with slack := b.slack + 160 })
    ∧ (s.rowDead (bankRow (64 * stack + bank) row) = true → exec (.hbmRowRemap stack bank row) s = .next s)
    ∧ (s.rowDead (bankRow (64 * stack + bank) row) = false → s.spareLeft stack ≠ 0 → ∃ t, exec (.hbmRowRemap stack bank row) s = .next t
      ∧ t.remapping = s.remapping ++ [{ stack := stack, bank := bank, row := row, cycle := s.cycle, time := s.time }])
    ∧ (s.spareLeft stack = 0 → ∃ t, exec (.hbmRowRemap stack bank row) s = .next t ∧ t.remapping = s.remapping)
    ∧ (∃ t, exec (.remapCopyComplete stack bank row) s = .next t ∧ t.mem = s.mem
      ∧ (∀ r, r ∈ t.remapping ↔ r ∈ s.remapping ∧ ¬ (r.stack = stack ∧ r.bank = bank ∧ r.row = row))
      ∧ t.accs.map (fun a => (a.id, a.state)) = s.accs.map (fun a => (a.id, a.state))))
  ∧ (∀ (s : State) (stack : Nat), stack < 8 →
    (s.gangs ≠ [] → ∃ t, exec (.quarantine stack) s = .next t ∧ bit (t.bar 0 0x10070 8) 60 = true ∧ t.rehome = s.rehome ∧ t.quarantine = s.quarantine)
    ∧ (s.gangs = [] → s.exported = false → s.liveRegions ≤ rehomeSlots → s.quarantine = none → s.quarantined stack = false →
      (s.rehome = [] ∨ s.rehome.length + ((List.range 262144).filter fun m => !s.deadRegions.contains m).length ≤ rehomeSlots) →
      ∃ t, exec (.quarantine stack) s = .next t ∧ t.quarantine = some stack ∧ bit (t.bar 0 0x10070 8) 61 = true
        ∧ ∀ m, m < 262144 → m ∉ s.deadRegions → ∃ n, (stack, m, n) ∈ t.rehome)
    ∧ (∀ t0, s.quarantine = some t0 → ∃ t, exec .quarantineComplete s = .next t ∧ t.quarantine = none ∧ bit (t.bar 0 0x10070 8) 61 = false))

/-- LEASE_REVOKE makes a lease revoking, unless its function is locked (R137, R319); LEASE_DEADLINE makes it revoked past its deadline, with nothing
outstanding, and EXPORT_DEADLINE an export past its own (R384, R385).

FLIT_REPLAY and PORT_RETRAIN: a port counts the replays of its flits, and trains after 16 of one; trained it is in service and its counts start anew
(R387). One that went down
trains again only onto a spare, once its repair is committed (log 103).

FABRIC_INGRESS of a packet at a port in service (R323, R324, R388): one whose tag the port does not pass is refused, a read of an exported region is
answered with its bytes, where the region is not filling with zeros (R134), and a write stores its own 64 bytes; a request that no export covers is refused with status 1, and a refused one of a lease ends with
RemoteNak, 0x0803, of kind 1 or 2 for its command (one not performed with a partner, R363). FABRIC_TIMEOUT: one without a response in 1 ms ends with kind 3 and the device (R386). -/
def Obligations.LeasesAndFabric : Prop :=
  (∀ (s : State) (i : Nat), i < 64 →
    let others (t : State) (a : Nat) : Prop := ∀ b, b < Space.bar 0 a ∨ Space.bar 0 a + 8 ≤ b → t.byte b = s.byte b
    (s.locked (bits (s.lease i 0) 21 12) = false → ∃ t, exec (.leaseRevoke i) s = .next t ∧ t.leaseState i = 2 ∧ t.lease i 3 = s.lease i 3
      ∧ bits (t.lease i 0) 61 0 = bits (s.lease i 0) 61 0 ∧ others t (0x12800 + 32 * i) ∧ t.accs = s.accs)
    ∧ (s.locked (bits (s.lease i 0) 21 12) = true → exec (.leaseRevoke i) s = .next s)
    ∧ (s.leaseState i = 2 → s.lease i 3 ≤ s.time → s.leaseBusy i = false → ∃ t, exec (.leaseDeadline i) s = .next t ∧ t.leaseState i = 3
      ∧ bits (t.lease i 0) 61 0 = bits (s.lease i 0) 61 0 ∧ others t (0x12800 + 32 * i) ∧ t.accs = s.accs)
    ∧ (s.leaseState i ≠ 2 ∨ s.time < s.lease i 3 ∨ s.leaseBusy i = true → exec (.leaseDeadline i) s = .next s)
    ∧ (bits (s.export' i 0) 63 62 = 2 → s.export' i 3 ≤ s.time → ∃ t, exec (.exportDeadline i) s = .next t ∧ bits (t.export' i 0) 63 62 = 3
      ∧ bits (t.export' i 0) 61 0 = bits (s.export' i 0) 61 0 ∧ others t (0x13000 + 32 * i) ∧ t.accs = s.accs)
    ∧ (bits (s.export' i 0) 63 62 ≠ 2 ∨ s.time < s.export' i 3 → exec (.exportDeadline i) s = .next s))
  ∧ (∀ (s : State) (p : Nat), p < 76 →
    (s.portUp p = false ∨ 16 ≤ s.replayCount p → exec (.flitReplay p) s = .next s)
    ∧ (s.portUp p = true → s.replayCount p < 16 → ∃ t, exec (.flitReplay p) s = .next t ∧ t.replayCount p = s.replayCount p + 1
      ∧ t.le (portKey p 0) 4 = min (s.le (portKey p 0) 4 + 1) 0xFFFFFFFF ∧ t.le (portKey p 4) 4 = min (s.le (portKey p 4) 4 + 1) 0xFFFFFFFF)
    ∧ (s.portUp p = false → p ∉ s.downPorts → ∃ t, exec (.portRetrain p true) s = .next t ∧ t.portUp p = true ∧ Tab.find? t.trainFails p = none)
    ∧ (p ∈ s.downPorts → s.portRepair p = none → exec (.portRetrain p true) s = .next s)
    ∧ (∀ r, s.portUp p = false → p ∈ s.downPorts → s.portRepair p = some r → ∃ t, exec (.portRetrain p true) s = .next t ∧ t.portUp p = true
        ∧ p ∉ t.downPorts ∧ t.applied = s.applied ++ [r])
    ∧ (s.portUp p = false → exec (.portRetrain p false) s
        = .next { s with trainFails := Tab.set s.trainFails p ((Tab.find? s.trainFails p).getD 0 + 1) }))
  ∧ (∀ (s : State) (p : Packet), s.packets = [p] → s.portUp p.port = true → s.replayCount p.port < 16 → bit (s.bar 0 0x10068 8) 63 = false →
    let reply (data : List Byte) (refused : Nat) : Packet := { p with data := data, response := some 0, refused := refused }
    let raised (t : State) (a : Acc) (info : Nat) : Prop := ∀ h, s.entry? a.core a.entry = some h → h.pairEntry = none → (t.entry? a.core a.entry).map (·.late)
      = some (h.late ++ [{ code := 0x0803, lsid := h.org.lsid, acore := a.core, ainfo := info, isExit := false }])
    (s.tagOk p = false → p.response = none → ∃ t, exec (.fabricIngress 0) s = .next t ∧ t.packets = [] ∧ reply [] 2 ∈ t.sent)
    ∧ (s.tagOk p = true → p.response = none → s.exportOf p = .error 1 →
        ∃ t, exec (.fabricIngress 0) s = .next t ∧ t.mem = s.mem ∧ t.packets = [] ∧ t.sent = reply [] 1 :: s.sent)
    ∧ (∀ pa, s.tagOk p = true → p.response = none → p.write = false → s.exportOf p = .ok pa → regionOf pa ∉ s.filling →
        ∃ t, exec (.fabricIngress 0) s = .next t ∧ t.mem = s.mem ∧ t.sent = reply ((s.physRead none false pa 64).map (·.1)) 0 :: s.sent)
    ∧ (∀ pa, s.tagOk p = true → p.response = none → p.write = true → p.data.length = 64 → s.exportOf p = .ok pa → pa % 64 = 0 → pa < 2 ^ 39 → s.deadRegions = [] → s.rehome = [] →
        ∃ t, exec (.fabricIngress 0) s = .next t ∧ t.packets = [] ∧ t.sent = reply [] 0 :: s.sent ∧ t.bytes (Space.phys pa) 64 = p.data)
    ∧ (∀ id a again, s.tagOk p = true → p.response = some id → s.acc? id = some a → a.state = .fabric p.port again → p.refused = 1 ∨ p.refused = 2 →
        ∃ t, exec (.fabricIngress 0) s = .next t ∧ t.packets = [] ∧ t.accs.all (fun b => b.id != id) = true ∧ raised t a p.refused)
    ∧ ∀ a port again, s.acc? a.id = some a → a.state = .fabric port again →
        (s.time < a.since + 1000000 → exec (.fabricTimeout a.id) s = .next s)
        ∧ (a.since + 1000000 ≤ s.time → ∃ t, exec (.fabricTimeout a.id) s = .next t ∧ (∀ b ∈ t.accs, b.id ≠ a.id)
            ∧ raised t a ((3 + 32 * (s.leaseOf a.pa).elim 0 fun i => bits (s.lease i 0) 59 48) % 2 ^ 21)))

/-! ### The device -/

/-- A notify and QUEUE_MAP_PENDING map an enabled queue with posted records into a free slot, which takes its ring, HEAD and TAIL and whose HEADT is now (R79,
R80); a notify for a queue in a slot moves its TAIL, where a record posted into an empty ring becomes the head now, and a queue that was unusable is mended (R79,
R352); one of a function in ERROR or without a queue base changes nothing (R399). Said
of a readable descriptor, a page outside HBM, no other slot, and no error injected. -/
def Obligations.QueuesMapped : Prop :=
  ∀ (s : State) (f qid tail pa : Nat) (key : Option Nat) (bs : List (Byte × Bool)), f < 1024 → qid < 256 → tail < 2 ^ 16 →
    let d := Desc.parse (bs.map (·.1))
    let mapped (t : State) (tl : Nat) : Prop := ∃ q, t.slotOf f qid = some (0, q) ∧ (q.func, q.qid, q.ring, q.size, q.head, q.tail)
      = (f, qid, d.ring, d.size, d.head % d.size, tl % d.size) ∧ q.headt = s.time ∧ q.enable = true ∧ q.cls = d.cls
    (s.barOpen f = false ∨ s.bar f 0x08 8 = 0 → exec (.qnotify f qid tail) s = .next s)
    ∧ (s.barOpen f = true → bit (s.bar 0 0x10068 8) 63 = false → s.bar f 0x08 8 ≠ 0 → s.fetch f (s.descVa f qid) 64 = .bytes bs → d.valid = true → bit d.flags 0 = true →
        s.owed = [] → isHbm pa = false →
        (s.capSlots = [] → tail % d.size ≠ d.head % d.size → s.capPage f (s.descVa f qid + 0x0C) true = .found pa key →
          ∃ t, exec (.qnotify f qid tail) s = .next t ∧ mapped t tail)
        ∧ (s.capSlots = [] → s.qpend = [(f, qid)] → d.tail % d.size ≠ d.head % d.size →
          ∃ t, exec .queueMapPending s = .next t ∧ mapped t d.tail ∧ t.qpend = [])
        ∧ ∀ k q, s.capSlots = [(k, q)] → q.func = f → q.qid = qid → s.inBinding k = false → q.head < d.size → tail % d.size ≠ q.head →
            s.capPage f (s.descVa f qid + 0x0A) true = .found pa key →
            ∃ t, exec (.qnotify f qid tail) s = .next t ∧ t.capSlots = [(k, { q with
              ring := d.ring, size := d.size, enable := true, nopre := bit d.flags 1, cls := d.cls, tail := tail % d.size,
              prio := if q.count = 0 then none else q.prio, headt := if q.count = 0 then s.time else q.headt,
              dirty := false, unusable := false, mending := false })])

/-- SELECTION_ROUND (R86) takes the head of the only slot: a record that fails its checks is rejected (R350), and one that can be placed is claimed at the
lowest placement and bound (R87, R89), said without an injected error; GANG_DISPATCH at GO makes every row with an entry block ready (R92). -/
def Obligations.GangsBound : Prop :=
  (∀ (s : State) (k : Nat) (q : CapSlot) (bs : List (Byte × Bool)), s.capSlots = [(k, q)] → s.qpend = [] → s.owed = [] → s.binding = [] →
    s.cancelled = [] → s.d3hot = false → q.dirty = false → q.enable = true → q.unusable = false → q.count ≠ 0 → q.skip < 16 →
    s.mayBind q.func = true → bit (s.bar 0 0x10068 8) 63 = false → s.fetch q.func (q.ring + 256 * q.head) 256 = .bytes bs →
    let r := bs.map (·.1)
    let read : Act := modCap k fun q => { q with prio := some (fieldOf r 4 1) }
    (∀ d ∈ recDeps r, s.depMet q.func d.1 d.2 = true) →
    (∀ reason, s.recordCheck q.func r = some reason →
      exec .selectionRound s = .next ((rejectHead k reason).run (read.run s)))
    ∧ (∀ p b, s.recordCheck q.func r = none → s.placement (s.partitions q.func) r = some p → s.groupRoom q.func (recGroups r) = some b →
      exec .selectionRound s = .next ((Act.all [read, claimGang k r p.1 p.2 b,
        .get fun s => .each (s.binding.filter fun b => b.go.isNone) continueBinding]).run s)))
  ∧ ∀ (s : State) (b : Binding) (g : Gang) (go : Nat), s.binding = [b] → b.go = some go → go ≤ s.cycle → s.gang? b.gang = some g →
    s.capSlot? b.slot = none → (∀ r ∈ s.rows, r.1 < 131072) →
    ∃ t, exec .gangDispatch s = .next t ∧ t.binding = [] ∧ (t.gang? b.gang).map (·.dispatched) = some true
      ∧ ∀ r ∈ s.rows, r.2.gang = b.gang → g.entries.getD (s.stage (r.1 / 512) (r.1 % 512)) 0 ≠ 0 → t.code (r.1 / 512) (r.1 % 512) = 1

/-- QCANCEL stops every row of the gang that it names, and marks a posted record (R93, R94; which of the two an index posted anew names is log 109); a release by the owner marks the gang, and any other
changes nothing (R96, R305); a gang that ends leaves no row and settles its record (R96). The first release is said of a gang with no command
in a queue. -/
def Obligations.GangsStopAndEnd : Prop :=
  ∀ (s : State) (f gang : Nat) (g : Gang),
    (s.barOpen f = true → s.binding = [] → s.gangs = [g] → g.func = f → g.dispatched = true →
      exec (.qcancel f g.qid g.index) s = .next ((stopRows g.id).run s))
    ∧ (∀ k q qid index, s.barOpen f = true → s.binding = [] → s.gangs = [] → s.cancelled = [] → s.slotOf f qid = some (k, q) →
        s.capSlot? k = some q → q.head < q.size → q.tail < q.size → index < q.size → index ≠ q.head →
        (index + q.size - q.head) % q.size < (q.tail + q.size - q.head) % q.size →
        ∃ t, exec (.qcancel f qid index) s = .next t ∧ t.cancelled = [(f, qid, index)] ∧ t.mem = s.mem)
    ∧ (s.gang? gang = some g →
      (g.func ≠ f → exec (.grelease f gang) s = .next s)
      ∧ (g.func = f → g.dispatched = true → s.barOpen f = true → s.mesh = [] → (∀ c ∈ s.cores, c.2.halyard = [] ∧ c.2.opa = []) →
        exec (.grelease f gang) s
          = .next { s with gangs := s.gangs.map fun x => if x.id == gang then { x with released := true } else x })
      ∧ (s.gangEnds g = false → exec (.gangEnd gang) s = .next s)
      ∧ (s.gangEnds g = true → ∃ t, exec (.gangEnd gang) s = .next t ∧ (∀ x ∈ t.gangs, x.id ≠ gang) ∧ (∀ r ∈ t.rows, r.2.gang ≠ gang)
        ∧ (g.func, g.qid, g.index) ∈ t.settled))

/-- TSTOP_STOP announces a stop at least 4,096 ns ahead for the cores of the context, and is ignored while BUSY (R103, R357); TSTOP_RESUME announces a resume,
or refuses it (R107, R358); D3HOT_ENTRY announces the stop of a live context, and with none lowers the link, D0_ENTRY raises it (R326). How much later
than asked is a free value (log 4). -/
def Obligations.StopsRequested : Prop :=
  ∀ (s : State) (f : Nat), f < 1024 →
    let announced (t : State) : Prop := t.stopBusy = true ∧ bits (t.bar 0 0x1002C 4) 9 0 = f
    (s.stopBusy = true → exec (.tstopStop f) s = .next s ∧ exec (.tstopResume f) s = .next s)
    ∧ (s.stopBusy = false →
      (s.areaUsable f = false → ∃ t, exec (.tstopStop f) s = .next t ∧ t.stop = s.stop ∧ bit (t.bar 0 0x1002C 4) 30 = true)
      ∧ (s.areaUsable f = true → ∃ t x, exec (.tstopStop f) s = .next t ∧ t.stop = some x ∧ x.func = f ∧ x.resume = false
          ∧ s.time + 4096 ≤ x.time ∧ x.cores = s.contextCores f ∧ announced t)
      ∧ (s.resumeRefused f = true → exec (.tstopResume f) s = .next ((refuseResume f).run s))
      ∧ (s.resumeRefused f = false → ∃ t x, exec (.tstopResume f) s = .next t ∧ t.stop = some x ∧ x.func = f ∧ x.resume = true
          ∧ s.time ≤ x.time ∧ announced t))
    ∧ (s.stop ≠ none → exec .d3hotEntry s = .next { s with pendingOps := s.pendingOps ++ [.d3hotEntry] })
    ∧ (s.stop = none → (∀ g ∈ s.gangs, (s.func g.func).halted = true) → exec .d3hotEntry s = .next { s with d3hot := true })
    ∧ (∀ g, s.stop = none → s.gangs.find? (fun g => !(s.func g.func).halted) = some g → s.stopBusy = false →
        ∃ t, exec .d3hotEntry s = .next t ∧ t.d3hot = s.d3hot ∧ t.pendingOps = s.pendingOps ++ [.d3hotEntry]
          ∧ (s.areaUsable g.func = true → ∃ x, t.stop = some x ∧ x.func = g.func ∧ x.resume = false ∧ s.time + 4096 ≤ x.time)
          ∧ (s.areaUsable g.func = false → t.stop = none ∧ bit (t.bar 0 0x1002C 4) 30 = true))
    ∧ exec .d0Entry s = .next { s with d3hot := false }

/-- The stop of a context (R103 to R106, R356): in its stop cycle a core stops and Capstan's part of the context is halted; at the deadline its open rows are closed by
force; a quiet core reports, the last one sends the flush token; a core issues the writes of its part, and once all have, and every write is performed,
the save ends; after 1 ms without the flush the stop is abandoned. At its time a resume is refused, or goes on (R107, R358): a saved context's gangs,
rows and messages are back, its cores run, no row is open, and its local SRAM reads as it was saved, but for the control words of its rows, said of one
core. That a function without a saved context goes on too is log 76. -/
def Obligations.StopsPerformed : Prop :=
  ∀ (s : State) (core : Nat) (t : StopSt), s.stop = some t →
    (t.resume = false → t.time ≤ s.time → core ∈ t.cores → (s.coreSt core).stopping = none → s.binding = [] →
      ∃ u, exec (.stopCycle core) s = .next u ∧ (u.coreSt core).stopping = some s.cycle ∧ (u.func t.func).halted = true)
    ∧ (t.resume = false → t.time + 8192 ≤ s.time → core ∈ t.cores → exec (.stopDeadline core) s
        = .next ((Act.each (s.slots.filter fun x => x.core == core) fun x => forceClose core x.rid).run s))
    ∧ (t.resume = false → core ∈ t.cores → (s.coreSt core).stopping.isSome = true → (s.coreSt core).quiet = false → s.coreQuiet core = true →
      ∃ u, exec (.coreQuiescent core) s = .next u ∧ (u.coreSt core).quiet = true ∧ u.mem = s.mem
        ∧ ((∀ c ∈ t.cores, c ≠ core → (s.coreSt c).quiet = true) →
            let mine (m : Msg) : Bool := t.cores.contains m.src || t.cores.contains m.dst
            u.stop = some { t with flushed := true, buffer := s.mesh.filter mine } ∧ u.mesh = s.mesh.filter fun m => !mine m))
    ∧ (t.flushed = true → core ∈ t.cores → core ∉ t.saved → ∃ u, exec (.contextSave core) s = .next u ∧ u.mem = s.mem
        ∧ u.stop = some { t with saved := insertSorted core t.saved } ∧ ∃ w, u.accs = s.accs ++ w ∧ ∀ a ∈ w, a.func = t.func ∧ a.write = true)
    ∧ (t.flushed = true → (∀ c ∈ t.cores, c ∈ t.saved) →
        (s.saving t.func = true → exec (.contextSave core) s = .next s)
        ∧ (s.saving t.func = false → ∃ u, exec (.contextSave core) s = .next u ∧ u.stop = none ∧ u.stopBusy = false
            ∧ (∀ g ∈ u.gangs, g.func ≠ t.func) ∧ ∃ x ∈ u.contexts, x.func = t.func))
    ∧ (t.resume = false → t.flushed = false → t.time + 1000000 ≤ s.time → ∃ u, exec .stopAbandon s = .next u ∧ u.stop = none
        ∧ u.stopBusy = false ∧ bit (u.bar 0 0x1002C 4) 30 = true ∧ (u.func t.func).halted = false)
    ∧ (t.resume = true → t.time ≤ s.time →
      ∃ u, exec .resumeTime s = .next u
        ∧ (s.resumeRefused t.func = true → u.stop = none ∧ bit (u.bar 0 0x1002C 4) 30 = true)
        ∧ (s.resumeRefused t.func = false → (∀ c ∈ s.contexts, c.func ≠ t.func) →
            u.stop = none ∧ u.stopBusy = false ∧ (u.func t.func).halted = false)
        ∧ ∀ x, s.resumeRefused t.func = false → s.contexts.find? (fun c => c.func == t.func) = some x → t.func < 1024 →
            (∀ c ∈ x.cores, c.1 < 256) → (∀ r ∈ x.rows, r.1 < 131072) →
            u.stop = none ∧ u.stopBusy = false ∧ (u.func t.func).halted = false ∧ (∀ c ∈ u.contexts, c.func ≠ t.func)
              ∧ u.gangs = s.gangs ++ x.gangs ∧ u.mesh = x.buffer ++ s.mesh
              ∧ (∀ c ∈ x.cores, (u.coreSt c.1).stopping = none ∧ (u.coreSt c.1).quiet = false)
              ∧ (∀ r ∈ x.rows, u.row? (r.1 / 512) (r.1 % 512) ≠ none ∧ u.code (r.1 / 512) (r.1 % 512) ≠ 2)
              ∧ ∀ c st a, x.cores = [(c, st)] → a < 2 ^ 21 → (∀ r ∈ x.rows, a < rowBase (r.1 % 512) ∨ rowBase (r.1 % 512) + 8 ≤ a) →
                  some (u.byte (Space.loc c a)) = ((s.physRead (some (s.keyOf (s.ckey t.func))) false
                    (corePart (s.ctxArea t.func) 0 + a) 1).map (·.1)).head?)

/-- A paired message whose hash differs from its partner's, or that has waited more than 65,536 cycles, is not performed (R364): it leaves the mesh and local
SRAM is as it was, but for the control fields of rows that a stop changes, the first 128 bytes of a row's area (R49); all memory is, where the gang has supersteps, whose step is then rolled back
(log 130 says how before the first snapshot). A rollback of a step is counted
and leaves no open slot where the step has begun, the fourth in a row stops the gang instead, and one after a stop cycle is held (R367,
R369). Stated without an injection and, of a rollback that is performed, without a mark that the log could hold. -/
def Obligations.PairsAndRollback : Prop :=
  ∀ (s : State) (g : Gang),
    let dropped (m : Msg) (u : State) : Prop := (∀ x ∈ u.mesh, x.pair ≠ m.pair)
      ∧ (∀ c a, c < 256 → a < 2 ^ 21 → 128 ≤ a % 4096 → u.byte (Space.loc c a) = s.byte (Space.loc c a))
      ∧ (g.superstep = true → u.mem = s.mem ∧ .op (.rollback g.id) ∈ u.work)
    (∀ (k : Nat) (m : Msg) (t : PairTag), s.mesh[k]? = some m → m.pair = some t → m.held = false → s.gang? t.gang = some g →
      (∀ b, s.partner t = some b → s.pairHash g m ≠ s.pairHash g b.2 →
        ∃ u, exec (.pairMismatch k) s = .next u ∧ dropped m u)
      ∧ (s.partner t = none → m.since + 65536 < s.cycle → ∃ u, exec (.pairTimeout k) s = .next u ∧ dropped m u)
      ∧ (m.since + 65536 ≥ s.cycle → exec (.pairTimeout k) s = .next s))
    ∧ (∀ b, s.gang? g.id = some g → g.superstep = true → g.barrier = some b → bit (s.bar 0 0x10068 8) 63 = false →
      ((s.func g.func).halted = true → exec (.rollback g.id) s
          = .next { s with gangs := s.gangs.map fun x => if x.id == g.id then { x with rollbackDue := true } else x })
      ∧ ((s.func g.func).halted = false → 3 ≤ g.rollbacks → exec (.rollback g.id) s = .next ((stopGang g 0x11 b.1).run s))
      ∧ ((s.func g.func).halted = false → g.rollbacks < 3 → s.poison = [] → ∃ u, exec (.rollback g.id) s = .next u
          ∧ (u.gang? g.id).map (·.rollbacks) = some (g.rollbacks + 1)
          ∧ ∀ n ∈ s.snaps, n.gang = g.id → s.flipDue g n.core = false → ∀ x ∈ u.slots, x.core ≠ n.core))

/-- A register write, of whatever width (log 100), replaces each byte by the access codes of its bits (R8, R10) and no other byte; PCAP is clamped (R326); a function in ERROR ignores it
(R399). SCDONE stores the reply and frees the record (R305), CAPMINT mints the capability that its fields name (R306), keys are generated, marked
destroyed and erased (R316), and PARTTAB takes a valid entry (R85, R306). -/
def Obligations.HostRegisters : Prop :=
  ∀ (s : State) (f off width v : Nat),
    (s.barOpen f = false → exec (.registerWrite f off width v) s = .next s)
    ∧ (s.barOpen f = true → 0x50 ≤ off → off + width ≤ 0x10000 → ∃ t, exec (.registerWrite f off width v) s = .next t
        ∧ (∀ i, i < width → t.byte (Space.bar f (off + i))
            = writtenByte f (off + i) (s.byte (Space.bar f (off + i))) (BitVec.ofNat 8 (v / 256 ^ i)))
        ∧ ∀ a, (∀ i, i < width → a ≠ Space.bar f (off + i)) → t.byte a = s.byte a)
    ∧ (s.barOpen 0 = true → 2 ≤ width → ∃ t, exec (.registerWrite 0 0x10048 width v) s = .next t
        ∧ t.bar 0 0x10048 4 = min 2600 (max 600 (v % 65536)))
    ∧ (∀ c, s.barOpen f = true → (s.func f).calls = [c] → c.index = v % 256 → c.posted = true →
        (c.orphan = true → exec (.scdone f v) s = .next { s with funcs := Tab.set s.funcs f { s.func f with calls := [] } })
        ∧ (c.orphan = false → s.twins c.org.core = [c.org.core] → c.rbar = 0 → s.guard = [] → (s.coreSt c.org.core).armed = [] →
          let reply := c.answer.getD (s.func f).reply
          (c.reply = 0 → ∃ t, exec (.scdone f v) s = .next t ∧ t.mem = s.mem ∧ (t.func f).calls = [])
          ∧ (c.reply ≠ 0 → c.reply + 8 ≤ 0x200000 → s.accepts c.org.core (pbytes c.reply 8 reply false) = true →
            (∀ i, i < 8 → s.isOpen c.org.core (ridOf (c.reply + i)) = false ∧ s.row? c.org.core (ridOf (c.reply + i)) = none) →
            ∃ t, exec (.scdone f v) s = .next t ∧ t.loc c.org.core c.reply 8 = reply % 2 ^ 64 ∧ (t.func f).calls = [])))
    ∧ (∀ k, k < 4 → bit (bits v 55 52) k = true → (∀ j, j < k → bit (bits v 55 52) j = false) → exec (.capmint v) s = .next { s with
        capRead := s.mintCap (bits v 63 56) (bits v 55 52) (bits v 51 48) (s.tileGen (bits v 63 56) k) (bits v 41 32) })
    ∧ (∀ slot, slot < 1024 →
        (bits (s.keyOwn slot) 15 14 = 0 → ∃ t, exec (.keyGenerate v slot) s = .next t ∧ t.keyOwn slot = 2 ^ 15 + v % 1024
          ∧ t.keyOf slot = s.nextKey + 1 ∧ t.nextKey = s.nextKey + 1 ∧ ∀ k, k ≠ slot → t.keyOf k = s.keyOf k)
        ∧ (bits (s.keyOwn slot) 15 14 ≠ 0 → exec (.keyGenerate v slot) s = .next s)
        ∧ (bit (s.keyOwn slot) 15 = true → s.locked (s.keyOwn slot % 1024) = false → ∃ t, exec (.keyDestroy slot) s = .next t
          ∧ bit (t.keyOwn slot) 14 = true ∧ bit (t.keyOwn slot) 15 = true ∧ t.keyOwn slot % 2 ^ 14 = s.keyOwn slot % 2 ^ 14)
        ∧ (bit (s.keyOwn slot) 14 = true → s.keyBusy slot = false → ∃ t, exec (.keyErase slot) s = .next t
          ∧ bits (t.keyOwn slot) 15 14 = 0 ∧ Tab.find? t.keyGen slot = none))
    ∧ ∀ node, 1 ≤ node → node < 512 → (bit (s.partEntry node) 15 = true → s.locked (s.partEntry node % 1024) = false) →
        (s.gangs = [] → (∀ m, 1 ≤ m → m < 512 → m ≠ node → bit (s.partEntry m) 15 = false) →
          ∃ t, exec (.parttabWrite node v) s = .next t ∧ t.partEntry node = bits v 15 15 * 2 ^ 15 + v % 1024)
        ∧ (bit (s.partEntry node) 15 = true → s.nodeBusy node = true → bit v 15 = false → exec (.parttabWrite node v) s = .next s)

/-- Repairs are committed or discarded whole (R390); CORE_DISABLE marks a core and makes it a candidate while its cluster has a spare (R391); MODULE_RESET leaves no
gang, row, slot, message or access, with the cycle count, the time, the clock and PCAP at their reset values, and HBM, LPDDR outside its boot bundle, host memory and the repair record as they were
(R325, R401); BOOTCTL with its key stages the bundle (R325); the clock moves by 75 MHz between 900 and 2,250 MHz, down while the power lies above the
cap and up where it would not, and PSTAT shows the power, at most 2,600 W, and the clock's average (R28, R326); the host link takes a trained width
and rate (R304). The clock and PCAP after a reset (log 1), where the boot bundle lies (log 101), what a reset keeps beside HBM (log 13) and where a
clock step is made (log 87) are the model's choice. -/
def Obligations.ModuleSteps : Prop :=
  ∀ (s : State) (core v : Nat),
    exec .repairCommit s = .next { s with repairs := s.repairs ++ s.candidates, candidates := [] }
    ∧ exec .repairDiscard s = .next { s with candidates := [] }
    ∧ (core < 256 → (s.coreSt core).disabled = false → s.gangs = [] → ∃ t, exec (.coreDisable core) s = .next t
        ∧ (t.coreSt core).disabled = true ∧ bit (t.bar 0 (0x10080 + core / 8) 1) (core % 8) = true
        ∧ (s.spareCore (clusterOf core) = true → t.candidates = s.candidates ++ [{ unit := 1, index := core, detail := 2, part := core }])
        ∧ (s.spareCore (clusterOf core) = false → t.candidates = s.candidates))
    ∧ ((∀ c ∈ s.cores, c.1 < 256) → ∃ t, exec .moduleReset s = .next t ∧ t.rows = [] ∧ t.slots = [] ∧ t.gangs = [] ∧ t.mesh = [] ∧ t.accs = [] ∧ t.cycle = 0 ∧ t.time = 0
        ∧ t.clock = 2250 ∧ t.bar 0 0x10048 4 = 2600 ∧ t.repairs = s.repairs ∧ t.candidates = [] ∧ t.chanRemaps = []
        ∧ ∀ a, 2 ^ 52 ≤ a → a < bundleKey ∨ bundleKey + (Config.bundle.take (2 ^ 33)).length ≤ a → t.byte a = s.byte a)
    ∧ (bits v 31 16 = 0xB007 → bit v 0 = true → exec (.bootctl v) s = .next { s with staged := true })
    ∧ (bits v 31 16 ≠ 0xB007 ∨ bit v 0 = false → exec (.bootctl v) s = .next s)
    ∧ (s.power (min 2250 (s.clock + 75)) ≤ s.bar 0 0x10048 2 →
        exec (.arithmeticClockStep true) s = .next { s with clock := min 2250 (s.clock + 75) })
    ∧ (s.bar 0 0x10048 2 < s.power (min 2250 (s.clock + 75)) → exec (.arithmeticClockStep true) s = .next s)
    ∧ (s.bar 0 0x10048 2 < s.power s.clock → 900 < s.clock → exec (.arithmeticClockStep false) s = .next { s with clock := max 900 (s.clock - 75) })
    ∧ (s.power s.clock ≤ s.bar 0 0x10048 2 ∨ s.clock ≤ 900 → exec (.arithmeticClockStep false) s = .next s)
    ∧ (s.barOpen 0 = true → s.regRead 0 0x1004C 2 = s.clockAvg % 65536 ∧ s.regRead 0 0x1004E 2 = s.power s.clock ∧ s.power s.clock ≤ 2600)
    ∧ ∀ width rate, width ∈ [16, 8, 4, 2, 1] → 1 ≤ rate → rate ≤ 64 →
        exec (.hostLinkTraining width rate) s = .next { s with linkWidth := width, linkRate := rate }

/-- SPDM: a responder whose connection is ready answers each request of R317 and moves on; one held in reset answers Unspecified (R400). A message of a session
counts its heartbeat periods anew; one whose tag fails, which may be of any kind (an input of its own, log 144), END_SESSION and three periods without a message end the session, and a relayed request without
an answer in 100 ms is answered Unspecified. What rests on keys and certificates, the period, and the answer to a request out of order are the
model's (log 10), as is the form of an offer (log 85). -/
def Obligations.SpdmRequests : Prop :=
  ∀ (s : State) (d x n : Nat), d < 13 →
    let c := s.responder d
    let hear (g : Spdm) : Spdm := if g.session then { g with last := s.time } else g
    let set (g : Spdm) (r : Response) : State := { s with spdm := Tab.set s.spdm d (hear g), responses := (d, r) :: s.responses }
    let tells (r : Response) : State :=
      { s with spdm := (if c.session then Tab.set s.spdm d (hear c) else s.spdm), responses := (d, r) :: s.responses }
    let some1 (i : Instr) (g : Spdm) : Prop := ∃ w, exec i s = .next { s with
      spdm := (if g = c ∧ c.session = false then s.spdm else Tab.set s.spdm d (hear g)), freeCtr := s.freeCtr + 1
      responses := (d, .words [w]) :: s.responses }
    let ends (i : Instr) : Prop := ∃ t, exec i s = .next t ∧ (t.responder d).session = false ∧ (t.responder d).exchanged = false
    (c.held = true → exec (.getVersion d) s = .next (tells .unspecified) ∧ exec (.challenge d n) s = .next (tells .unspecified)
      ∧ exec (.getMeasurements d x n) s = .next (tells .unspecified) ∧ exec (.heartbeat d true) s = .next (tells .unspecified))
    ∧ (c.held = false →
      exec (.getVersion d) s = .next (set { c with version := true, negotiated := false } (.words [0x13]))
      ∧ (c.version = true → some1 (.getCapabilities d) c
          ∧ exec (.negotiateAlgorithms d n) s = .next (set { c with negotiated := n % 8 == 7 } (.words [n % 8])))
      ∧ (c.version = false → exec (.getCapabilities d) s = .next (tells .unexpected))
      ∧ (c.negotiated = true → some1 (.getDigests d) c
          ∧ exec (.getCertificate d 0 x n) s = .next (tells (.words [x, n, Config.spdmBytes d 0x82 (x * 2 ^ 32 + n)]))
          ∧ exec (.challenge d n) s = .next (tells (.words [n, Config.spdmBytes d 0x83 n]))
          ∧ (1 ≤ x → x ≤ 4 → exec (.getMeasurements d x n) s
              = .next (tells (.words [x, Config.measure d x (s.measured d x), n, Config.spdmBytes d 0xE0 n])))
          ∧ (c.session = false → c.exchanged = false → some1 (.keyExchange d) { c with exchanged := true }))
      ∧ (c.exchanged = true → exec (.finish d true) s = .next (set { c with session := true, exchanged := false } .done) ∧ ends (.finish d false))
      ∧ (c.session = true → exec (.heartbeat d true) s = .next (tells .done) ∧ exec (.keyUpdate d true) s = .next (tells .done)
          ∧ ends (.heartbeat d false) ∧ ends (.keyUpdate d false) ∧ ends (.endSession d))
      ∧ (((s.input (.forged d)).1).responder d).session = false)
    ∧ (s.silent d = true → ends (.heartbeatTimeout d)) ∧ (s.silent d = false → exec (.heartbeatTimeout d) s = .next s)
    ∧ (1 ≤ d → s.relayLate d = true → exec (.relayTimeout d) s
        = .next { s with spdm := Tab.set s.spdm d { c with relayed := none }, responses := (d, .unspecified) :: s.responses })
    ∧ (s.relayLate d = false → exec (.relayTimeout d) s = .next s)

/-- TDISP (R319, R399): an unlocked interface is locked, a locked one starts, and one that is locked, running or in ERROR stops, which ends its gangs; a message
that the state does not allow is answered with INVALID_INTERFACE_STATE; an error puts a locked or running one into ERROR. IDE keys are taken in the
session (R320). One whose tag fails is an input of its own and ends the session (R400, log 144). In which states a report is given, and that a stop ends the gangs at once, is log 84. -/
def Obligations.Interfaces : Prop :=
  ∀ (s : State) (f key : Nat), 1 ≤ f → f ≤ 512 →
    let x := s.func f
    let heard : State := { s with spdm := Tab.set s.spdm 0 { s.responder 0 with last := s.time } }
    let tells (r : Response) : State := { heard with responses := (0, r) :: s.responses }
    let set (g : FuncSt) : State := { heard with funcs := Tab.set s.funcs f g, responses := (0, .done) :: s.responses }
    ((s.responder 0).session = true → (s.responder 0).held = false →
      (x.tdi = 0 → exec (.lockInterface f) s = .next (set { x with tdi := 1, lockSession := some 0 }))
      ∧ (x.tdi ≠ 0 → exec (.lockInterface f) s = .next (tells .invalidState))
      ∧ (x.tdi = 1 → exec (.startInterface f) s = .next (set { x with tdi := 2 }))
      ∧ (x.tdi ≠ 1 → exec (.startInterface f) s = .next (tells .invalidState))
      ∧ (x.tdi = 1 ∨ x.tdi = 2 ∨ x.tdi = 3 → ∃ t, exec (.stopInterface f) s = .next t ∧ (t.func f).tdi = 0 ∧ (t.func f).lockSession = none
          ∧ t.responses.head? = some (0, .done) ∧ ∀ g ∈ t.gangs, g.func ≠ f)
      ∧ (x.tdi = 0 → exec (.stopInterface f) s = .next (tells .invalidState))
      ∧ (x.tdi = 1 ∨ x.tdi = 2 → exec (.getDeviceInterfaceReport f) s = .next (tells (.words (s.report f))))
      ∧ (x.tdi < 4 → exec (.getDeviceInterfaceState f) s = .next (tells (.words [x.tdi])))
      ∧ (∀ stream, stream ≤ 16 → exec (.ideKm stream key) s = .next { heard with ide := Tab.set s.ide stream key })
      ∧ (((s.input (.forged 0)).1).responder 0).session = false ∧ ((s.input (.forged 0)).1).ide = s.ide)
    ∧ (x.tdi = 1 ∨ x.tdi = 2 → ∃ t, exec (.tdiError f) s = .next t ∧ (t.func f).tdi = 3 ∧ ∀ g ∈ t.gangs, g.func ≠ f)
    ∧ (x.tdi = 0 ∨ x.tdi = 3 → exec (.tdiError f) s = .next s)

/-! ### The machine -/

/-- The machine after reset has its memory in canonical form, every time, count and clock of R6, R26 and R326 at its reset value, every core, cluster, function
and SPDM responder at its own, and nothing in progress: no row, slot, gang, message, access, queue, stop, repair, packet or piece of work. That the
clock starts at the highest rate and PCAP at the highest power is log 1, that start-up is complete, with the time still 0, is log 13 and log 120. -/
def Obligations.ResetInv : Prop :=
  let s := State.reset
  s.Inv ∧ (s.cycle = 0 ∧ s.time = 0 ∧ s.timeFrac = 0 ∧ s.clock = 2250 ∧ s.clockSum = 0 ∧ s.clockAvg = 2250 ∧ s.bar 0 0x10048 2 = 2600)
  ∧ ((∀ c, s.coreSt c = CoreSt.reset) ∧ (∀ c, s.clusterSt c = ClusterSt.reset) ∧ (∀ f, s.func f = FuncSt.reset) ∧ ∀ d, s.responder d = Spdm.reset)
  ∧ (s.rows = [] ∧ s.slots = [] ∧ s.mesh = [] ∧ s.accs = [] ∧ s.gangs = [] ∧ s.groupTab = [] ∧ s.forks = [] ∧ s.snaps = [])
  ∧ (s.capSlots = [] ∧ s.qpend = [] ∧ s.cancelled = [] ∧ s.owed = [] ∧ s.binding = [] ∧ s.settled = [] ∧ s.pendingOps = [] ∧ s.lastBinds = [])
  ∧ (s.contexts = [] ∧ s.stop = none ∧ s.invals = [] ∧ s.d3hot = false ∧ s.staged = false)
  ∧ (s.deadRegions = [] ∧ s.filling = [] ∧ s.remapping = [] ∧ s.openRows = [] ∧ s.streaks = [] ∧ s.activations = [] ∧ s.quarantine = none
    ∧ s.rehome = [] ∧ s.candidates = [] ∧ s.lineErrors = [] ∧ s.rowErrors = [] ∧ s.errLost = 0 ∧ s.poison = [] ∧ s.guard = [])
  ∧ (s.packets = [] ∧ s.sent = [] ∧ s.replays = [] ∧ s.trainFails = [] ∧ s.downPorts = [] ∧ s.ide = [] ∧ s.responses = [])
  ∧ (s.work = [] ∧ s.inputs = [] ∧ s.cursor = none)

/-- Every step keeps the memory in canonical form: addresses strictly rise, and no entry equals what an unlisted address reads as. -/
def Obligations.MemoryCanonical : Prop :=
  ∀ s t : State, s.Inv → step s = .next t → t.Inv

/-- Every step of the machine that is no encoded instruction answers a next state from every state, and keeps the memory canonical; and an encoded instruction stops
only where the cursor names no instance. That a step can be given in a state that does not meet its conditions, and then changes nothing, is log 141. -/
def Obligations.StepsComplete : Prop :=
  ∀ (i : Instr) (s : State),
    (encode i = none → ∃ t, exec i s = .next t ∧ (s.Inv → t.Inv))
    ∧ (exec i s = .fault .noInstance → s.fired? i = none)
    ∧ ∀ r, exec i s ≠ .refused r

/-- A step does the next piece of the cycle's work, a timed step by its `exec`; with none left the next cycle begins: the cycle count rises by 1, and the time
base by the nanoseconds that pass, but not in ROM recovery, where it has not started (R6, R26, R401). The order of the work of a cycle is the model's (log 3). -/
def Obligations.CyclesPass : Prop :=
  ∀ (s : State),
    (∀ i w, s.work = .op i :: w → step s = exec i { s with work := w })
    ∧ (∀ n was w, s.work = .stage n was :: w → step s = .next { s with work := plan n was { s with work := w } ++ w })
    ∧ (s.work = [] → ∃ t, step s = .next t ∧ t.cycle = s.cycle + 1 ∧ t.clock = s.clock
        ∧ (s.recovery = false → t.time = s.time + (s.timeFrac + 1000) / s.clock ∧ t.timeFrac = (s.timeFrac + 1000) % s.clock)
        ∧ (s.recovery = true → s.timeFrac < s.clock → t.time = s.time ∧ t.timeFrac = s.timeFrac))
end

