-- ==== Sys2Proof/Laws/Memory.lean ====
section
/-!
SUPPORT. Laws of memory: every operation keeps the canonical form, a read after a write gives what was written, and a write leaves
every other address alone.
-/

namespace Sys2Proof.Machine

open Host (Cell)

theorem Memory.sorted_iff (m : List Cell) : Memory.sorted m = true ↔ m.Pairwise fun x y => x.1 < y.1 := by
  induction m with
  | nil => simp [Memory.sorted]
  | cons a m ih =>
    cases m with
    | nil => simp [Memory.sorted]
    | cons b m =>
      simp only [Memory.sorted, Bool.and_eq_true, decide_eq_true_eq, ih, List.pairwise_cons]
      constructor
      · rintro ⟨h, h1, h2⟩
        refine ⟨?_, h1, h2⟩
        rintro c (_ | ⟨_, hc⟩)
        · exact h
        · exact h.trans (h1 c hc)
      · rintro ⟨h, h1, h2⟩
        exact ⟨h b (by simp), h1, h2⟩

/-- The canonical form, as a property of lists. -/
theorem Memory.wf_iff (m : List Cell) :
    Memory.wf m = true ↔ (m.Pairwise fun x y => x.1 < y.1) ∧ ∀ c ∈ m, c.2 ≠ unlisted c.1 := by
  simp [Memory.wf, Memory.sorted_iff]

/-- The cells of a write lie in its range and hold no byte that an unlisted address reads as. -/
theorem Memory.cells_mem {a : Nat} {bs : List Byte} {c : Cell} (h : c ∈ Memory.cells a bs) :
    a ≤ c.1 ∧ c.1 < a + bs.length ∧ c.2 ≠ unlisted c.1 := by
  induction bs generalizing a with
  | nil => simp [Memory.cells] at h
  | cons b bs ih =>
    simp only [Memory.cells] at h
    split at h
    · have := ih h; simp only [List.length_cons]; exact ⟨by omega, by omega, this.2.2⟩
    · rcases List.mem_cons.1 h with rfl | h
      · simp_all
      · have := ih h; simp only [List.length_cons]; exact ⟨by omega, by omega, this.2.2⟩

theorem Memory.cells_pairwise (a : Nat) (bs : List Byte) :
    (Memory.cells a bs).Pairwise fun x y => x.1 < y.1 := by
  induction bs generalizing a with
  | nil => simp [Memory.cells]
  | cons b bs ih =>
    simp only [Memory.cells]
    split
    · exact ih _
    · refine List.pairwise_cons.2 ⟨fun c hc => ?_, ih _⟩
      have := Memory.cells_mem hc; simp only; omega

/-- A write keeps the canonical form. -/
theorem Memory.write_wf {m : List Cell} (h : Memory.wf m = true) (a : Nat) (bs : List Byte) :
    Memory.wf (Memory.write m a bs) = true := by
  rw [Memory.wf_iff] at *
  obtain ⟨hs, hu⟩ := h
  refine ⟨?_, ?_⟩
  · refine List.pairwise_append.2 ⟨hs.filter _, List.pairwise_append.2 ⟨Memory.cells_pairwise _ _, hs.filter _, ?_⟩, ?_⟩
    · intro x hx y hy
      have := Memory.cells_mem hx
      simp only [List.mem_filter, decide_eq_true_eq] at hy; omega
    · intro x hx y hy
      simp only [List.mem_filter, decide_eq_true_eq] at hx
      rcases List.mem_append.1 hy with hy | hy
      · have := Memory.cells_mem hy; omega
      · simp only [List.mem_filter, decide_eq_true_eq] at hy; omega
  · intro c hc
    rcases List.mem_append.1 hc with hc | hc
    · exact hu c (List.mem_of_mem_filter hc)
    · rcases List.mem_append.1 hc with hc | hc
      · exact (Memory.cells_mem hc).2.2
      · exact hu c (List.mem_of_mem_filter hc)

/-- Clearing keeps the canonical form. -/
theorem Memory.clear_wf {m : List Cell} (h : Memory.wf m = true) (a n : Nat) :
    Memory.wf (Memory.clear m a n) = true := by
  rw [Memory.wf_iff] at *
  exact ⟨h.1.filter _, fun c hc => h.2 c (List.mem_of_mem_filter hc)⟩

/-- A read skips a list that does not list the address. -/
theorem Memory.read_append_of_not_mem {l m : List Cell} {x : Nat} (h : ∀ c ∈ l, c.1 ≠ x) :
    Memory.read (l ++ m) x = Memory.read m x := by
  induction l with
  | nil => rfl
  | cons c l ih =>
    simp only [List.cons_append, Memory.read]
    rw [if_neg (h c (by simp)), ih fun d hd => h d (by simp [hd])]

/-- A read of a list that does not list the address. -/
theorem Memory.read_of_not_mem {m : List Cell} {x : Nat} (h : ∀ c ∈ m, c.1 ≠ x) : Memory.read m x = unlisted x := by
  have := Memory.read_append_of_not_mem (m := []) h
  simpa [Memory.read] using this

/-- A read stops in a list after which nothing lists the address. -/
theorem Memory.read_append_left {l m : List Cell} {x : Nat} (h : ∀ c ∈ m, c.1 ≠ x) :
    Memory.read (l ++ m) x = Memory.read l x := by
  induction l with
  | nil => simpa [Memory.read] using Memory.read_of_not_mem h
  | cons c l ih => simp only [List.cons_append, Memory.read, ih]

/-- Dropping other addresses does not change a read. -/
theorem Memory.read_filter {m : List Cell} {x : Nat} (p : Nat → Bool) (h : p x = true) :
    Memory.read (m.filter fun c => p c.1) x = Memory.read m x := by
  induction m with
  | nil => rfl
  | cons c m ih =>
    by_cases hc : p c.1 = true
    · simp only [List.filter, hc, Memory.read, ih]
    · have hx : c.1 ≠ x := by rintro rfl; exact hc h
      simp only [List.filter, Bool.not_eq_true] at hc ⊢
      simp only [hc, Memory.read, if_neg hx, ih]

/-- What the cells of a write read as in its range. -/
theorem Memory.read_cells {a i : Nat} {bs : List Byte} (h : i < bs.length) :
    Memory.read (Memory.cells a bs) (a + i) = bs[i] := by
  induction bs generalizing a i with
  | nil => simp at h
  | cons b bs ih =>
    cases i with
    | zero =>
      simp only [Memory.cells, Nat.add_zero, List.getElem_cons_zero]
      split
      · rename_i hb
        rw [Memory.read_of_not_mem (fun c hc => by have := Memory.cells_mem hc; omega), hb]
      · simp [Memory.read]
    | succ i =>
      have h' : i < bs.length := by simpa using h
      have e : a + (i + 1) = a + 1 + i := by omega
      simp only [Memory.cells, List.getElem_cons_succ, e]
      split
      · exact ih h'
      · simp only [Memory.read]
        rw [if_neg (by omega), ih h']

/-- A read inside a write gives the byte written. -/
theorem Memory.read_write_same {m : List Cell} {a i : Nat} {bs : List Byte} (h : i < bs.length) :
    Memory.read (Memory.write m a bs) (a + i) = bs[i] := by
  rw [Memory.write, Memory.read_append_of_not_mem, Memory.read_append_left, Memory.read_cells h]
  · intro c hc; simp only [List.mem_filter, decide_eq_true_eq] at hc; omega
  · intro c hc; simp only [List.mem_filter, decide_eq_true_eq] at hc; omega

/-- A write leaves every other address alone. -/
theorem Memory.read_write_other {m : List Cell} {a x : Nat} {bs : List Byte} (h : x < a ∨ a + bs.length ≤ x) :
    Memory.read (Memory.write m a bs) x = Memory.read m x := by
  rw [Memory.write]
  rcases h with h | h
  · rw [Memory.read_append_left, Memory.read_filter (fun k => decide (k < a)) (by simpa using h)]
    intro c hc
    rcases List.mem_append.1 hc with hc | hc
    · have := Memory.cells_mem hc; omega
    · simp only [List.mem_filter, decide_eq_true_eq] at hc; omega
  · rw [Memory.read_append_of_not_mem, Memory.read_append_of_not_mem,
      Memory.read_filter (fun k => decide (a + bs.length ≤ k)) (by simpa using h)]
    · intro c hc; have := Memory.cells_mem hc; omega
    · intro c hc; simp only [List.mem_filter, decide_eq_true_eq] at hc; omega

/-- A cleared address reads as an unlisted one. -/
theorem Memory.read_clear_same {m : List Cell} {a n x : Nat} (h : a ≤ x ∧ x < a + n) :
    Memory.read (Memory.clear m a n) x = unlisted x := by
  refine Memory.read_of_not_mem fun c hc => ?_
  simp only [Memory.clear, List.mem_filter, Bool.or_eq_true, decide_eq_true_eq] at hc; omega

/-- Clearing leaves every other address alone. -/
theorem Memory.read_clear_other {m : List Cell} {a n x : Nat} (h : x < a ∨ a + n ≤ x) :
    Memory.read (Memory.clear m a n) x = Memory.read m x :=
  Memory.read_filter (fun k => decide (k < a) || decide (a + n ≤ k)) (by simpa using h)

/-- The bytes of a number are as many as asked. -/
@[simp] theorem leBytes_length (n v : Nat) : (leBytes n v).length = n := by
  induction n generalizing v with
  | zero => rfl
  | succ n ih => simp [leBytes, ih]

/-- The number in the bytes of a number. -/
theorem leNat_leBytes (n v : Nat) : leNat (leBytes n v) = v % 256 ^ n := by
  induction n generalizing v with
  | zero => simp [leBytes, leNat, Nat.mod_one]
  | succ n ih =>
    simp only [leBytes, leNat, ih, BitVec.toNat_ofNat]
    rw [show (2 : Nat) ^ 8 = 256 from rfl, pow_succ, mul_comm (256 ^ n) 256, Nat.mod_mul]

/-- Bytes read where they have been written. -/
theorem Memory.readN_write_same (m : List Cell) (a : Nat) (bs : List Byte) :
    Memory.readN (Memory.write m a bs) a bs.length = bs := by
  have key : ∀ (n i : Nat) (_ : i + n = bs.length),
      Memory.readN (Memory.write m a bs) (a + i) n = bs.drop i := by
    intro n
    induction n with
    | zero => intro i h; simp [Memory.readN, show i = bs.length by omega]
    | succ n ih =>
      intro i h
      rw [Memory.readN, Memory.read_write_same (by omega), Nat.add_assoc, ih (i + 1) (by omega)]
      exact (List.drop_eq_getElem_cons (by omega)).symm
  simpa using key bs.length 0 (by omega)

/-- Bytes read where nothing has been written. -/
theorem Memory.readN_write_other {m : List Cell} {a x n : Nat} {bs : List Byte} (h : x + n ≤ a ∨ a + bs.length ≤ x) :
    Memory.readN (Memory.write m a bs) x n = Memory.readN m x n := by
  induction n generalizing x with
  | zero => rfl
  | succ n ih => rw [Memory.readN, Memory.readN, Memory.read_write_other (by omega), ih (by omega)]

end Sys2Proof.Machine
end

