-- ==== Sys2Proof/Laws/Act.lean ====
section
/-!
SUPPORT. Laws of the programs of updates: how they run one after another, that every one keeps the canonical form of memory, and when
one leaves a part of the state alone.
-/

namespace Sys2Proof.Machine

@[simp] theorem Act.run_done (s : State) : Act.done.run s = s := rfl
@[simp] theorem Act.run_write (a : Nat) (bs : List Byte) (k : Act) (s : State) :
    (Act.write a bs k).run s = k.run { s with mem := Memory.write s.mem a bs } := rfl
@[simp] theorem Act.run_clear (a n : Nat) (k : Act) (s : State) :
    (Act.clear a n k).run s = k.run { s with mem := Memory.clear s.mem a n } := rfl
@[simp] theorem Act.run_mod (f : State → State) (k : Act) (s : State) :
    (Act.mod f k).run s = k.run { f s with mem := s.mem } := rfl
@[simp] theorem Act.run_get (f : State → Act) (s : State) : (Act.get f).run s = (f s).run s := rfl

@[simp] theorem Act.run_andThen (a b : Act) (s : State) : (a.andThen b).run s = b.run (a.run s) := by
  induction a generalizing s with
  | done => rfl
  | write a bs k ih => exact ih _
  | clear a n k ih => exact ih _
  | mod f k ih => exact ih _
  | get f ih => exact ih s s

@[simp] theorem Act.run_all_nil (s : State) : (Act.all []).run s = s := rfl
@[simp] theorem Act.run_all_cons (a : Act) (as : List Act) (s : State) :
    (Act.all (a :: as)).run s = (Act.all as).run (a.run s) := Act.run_andThen a _ s

@[simp] theorem Act.run_each_nil {α : Type} (f : α → Act) (s : State) : (Act.each [] f).run s = s := rfl
@[simp] theorem Act.run_each_cons {α : Type} (x : α) (xs : List α) (f : α → Act) (s : State) :
    (Act.each (x :: xs) f).run s = (Act.each xs f).run ((f x).run s) := Act.run_andThen _ _ s

theorem Act.run_when (b : Bool) (a : Act) (s : State) : (Act.when b a).run s = if b then a.run s else s := by
  cases b <;> rfl
@[simp] theorem Act.run_when_true (a : Act) (s : State) : (Act.when true a).run s = a.run s := rfl
@[simp] theorem Act.run_when_false (a : Act) (s : State) : (Act.when false a).run s = s := rfl

@[simp] theorem run_put (a : Nat) (bs : List Byte) (s : State) :
    (put a bs).run s = { s with mem := Memory.write s.mem a bs } := rfl
@[simp] theorem run_putLe (a n v : Nat) (s : State) :
    (putLe a n v).run s = { s with mem := Memory.write s.mem a (leBytes n v) } := rfl
@[simp] theorem run_wipe (a n : Nat) (s : State) : (wipe a n).run s = { s with mem := Memory.clear s.mem a n } := rfl
@[simp] theorem run_upd (f : State → State) (s : State) : (upd f).run s = { f s with mem := s.mem } := rfl

/-- Every program keeps the canonical form of memory. -/
theorem Act.run_wf (a : Act) (s : State) (h : Memory.wf s.mem = true) : Memory.wf (a.run s).mem = true := by
  induction a generalizing s with
  | done => exact h
  | write a bs k ih => exact ih _ (Memory.write_wf h a bs)
  | clear a n k ih => exact ih _ (Memory.clear_wf h a n)
  | mod f k ih => exact ih _ h
  | get f ih => exact ih s s h

/-- A program that leaves a part of the state alone, whatever the state it runs in. -/
def Act.Keeps {α : Type} (p : State → α) : Act → Prop
  | .done => True
  | .write a bs k => (∀ s, p { s with mem := Memory.write s.mem a bs } = p s) ∧ k.Keeps p
  | .clear a n k => (∀ s, p { s with mem := Memory.clear s.mem a n } = p s) ∧ k.Keeps p
  | .mod f k => (∀ s, p { f s with mem := s.mem } = p s) ∧ k.Keeps p
  | .get f => ∀ s, (f s).Keeps p

theorem Act.Keeps.run {α : Type} {p : State → α} {a : Act} (h : a.Keeps p) (s : State) : p (a.run s) = p s := by
  induction a generalizing s with
  | done => rfl
  | write a bs k ih => exact (ih h.2 _).trans (h.1 s)
  | clear a n k ih => exact (ih h.2 _).trans (h.1 s)
  | mod f k ih => exact (ih h.2 _).trans (h.1 s)
  | get f ih => exact ih s (h s) s

section Keeps
variable {α : Type} {p : State → α}

@[simp] theorem Act.keeps_done : Act.done.Keeps p := trivial
@[simp] theorem Act.keeps_get (f : State → Act) : (Act.get f).Keeps p ↔ ∀ s, (f s).Keeps p := Iff.rfl
@[simp] theorem keeps_upd (f : State → State) : (upd f).Keeps p ↔ ∀ s, p { f s with mem := s.mem } = p s := by
  simp [upd, Act.Keeps]
@[simp] theorem keeps_put (a : Nat) (bs : List Byte) :
    (put a bs).Keeps p ↔ ∀ s : State, p { s with mem := Memory.write s.mem a bs } = p s := by simp [put, Act.Keeps]

theorem Act.Keeps.andThen {a b : Act} (ha : a.Keeps p) (hb : b.Keeps p) : (a.andThen b).Keeps p := by
  induction a with
  | done => exact hb
  | write a bs k ih => exact ⟨ha.1, ih ha.2⟩
  | clear a n k ih => exact ⟨ha.1, ih ha.2⟩
  | mod f k ih => exact ⟨ha.1, ih ha.2⟩
  | get f ih => exact fun s => ih s (ha s)

@[simp] theorem Act.keeps_all_nil : (Act.all []).Keeps p := trivial
theorem Act.Keeps.all {as : List Act} (h : ∀ a ∈ as, a.Keeps p) : (Act.all as).Keeps p := by
  induction as with
  | nil => trivial
  | cons a as ih => exact (h a (by simp)).andThen (ih fun b hb => h b (by simp [hb]))
theorem Act.Keeps.each {β : Type} {xs : List β} {f : β → Act} (h : ∀ x ∈ xs, (f x).Keeps p) : (Act.each xs f).Keeps p :=
  Act.Keeps.all fun a ha => by obtain ⟨x, hx, rfl⟩ := List.mem_map.1 ha; exact h x hx
theorem Act.Keeps.when {a : Act} (b : Bool) (h : a.Keeps p) : (Act.when b a).Keeps p := by
  cases b
  · trivial
  · exact h

end Keeps

end Sys2Proof.Machine
end

