-- ==== Sys2Proof/Laws/Fire.lean ====
section
/-!
SUPPORT. Laws of firing: what the shared operations of Machine/Operands.lean, Machine/Memory.lean and Machine/Exits.lean do to the
instance under the cursor, each said once.
-/

namespace Sys2Proof.Machine

@[simp] theorem run_modSlot (core rid : Nat) (g : Slot → Slot) (s : State) :
    (modSlot core rid g).run s
      = { s with slots := s.slots.map fun x => if x.core == core && x.rid == rid then g x else x } := rfl

@[simp] theorem run_modInst (core rid : Nat) (g : Inst → Inst) (s : State) :
    (modInst core rid g).run s = s.withInst core rid g := rfl

@[simp] theorem run_markFired (core rid idx lat : Nat) (s : State) :
    (markFired core rid idx lat).run s
      = s.withInst core rid fun x => { x with fired := x.fired ++ [(idx, s.cycle)], busy := x.busy ++ [(idx, s.cycle + lat - 1)] } := rfl

theorem run_deliver (core rid idx : Nat) (sh : Shape) (v : Token) (due : Nat) (s : State) :
    (deliver core rid idx sh v due).run s = s.withInst core rid fun x =>
      { x with toks := x.toks ++ sh.targets.map fun t => { dest := t, val := v, due := due, from? := idx } } := rfl

/-- Two changes of one instance are one. -/
@[simp] theorem State.withInst_withInst (s : State) (core rid : Nat) (g h : Inst → Inst) :
    (s.withInst core rid g).withInst core rid h = s.withInst core rid fun x => h (g x) := by
  simp only [State.withInst, List.map_map]
  congr 1
  refine List.map_congr_left fun x _ => ?_
  simp only [Function.comp_apply]
  by_cases hx : (x.core == core && x.rid == rid) = true
  · simp only [hx, if_true]
  · simp only [hx, if_false, Bool.false_eq_true]

@[simp] theorem State.withInst_mem (s : State) (core rid : Nat) (g : Inst → Inst) : (s.withInst core rid g).mem = s.mem := rfl
@[simp] theorem State.withInst_cycle (s : State) (core rid : Nat) (g : Inst → Inst) : (s.withInst core rid g).cycle = s.cycle := rfl
@[simp] theorem State.withInst_cores (s : State) (core rid : Nat) (g : Inst → Inst) : (s.withInst core rid g).cores = s.cores := rfl
@[simp] theorem State.withInst_rows (s : State) (core rid : Nat) (g : Inst → Inst) : (s.withInst core rid g).rows = s.rows := rfl
@[simp] theorem State.withInst_gangs (s : State) (core rid : Nat) (g : Inst → Inst) : (s.withInst core rid g).gangs = s.gangs := rfl
@[simp] theorem State.withInst_funcs (s : State) (core rid : Nat) (g : Inst → Inst) : (s.withInst core rid g).funcs = s.funcs := rfl
@[simp] theorem State.withInst_mesh (s : State) (core rid : Nat) (g : Inst → Inst) : (s.withInst core rid g).mesh = s.mesh := rfl
@[simp] theorem State.after_mem (s : State) (f : Fired) (g : Inst → Inst) : (s.after f g).mem = s.mem := rfl
@[simp] theorem State.after_cycle (s : State) (f : Fired) (g : Inst → Inst) : (s.after f g).cycle = s.cycle := rfl

/-- A change of an instance that has noted a firing. -/
@[simp] theorem State.noted_withInst (s : State) (f : Fired) (h : Inst → Inst) :
    (s.noted f).withInst f.core f.rid h = s.after f h := State.withInst_withInst _ _ _ _ _

@[simp] theorem State.noted_cycle (s : State) (f : Fired) : (s.noted f).cycle = s.cycle := rfl
@[simp] theorem State.noted_mem (s : State) (f : Fired) : (s.noted f).mem = s.mem := rfl

/-- The slot under the cursor belongs to the firing's row. -/
theorem fired?_shape {i : Instr} {s : State} {f : Fired} (h : s.fired? i = some f) : f.sh = shape i := by
  simp only [State.fired?] at h
  split at h
  · cases h
  · split at h
    · cases h
    · split at h
      · cases h; rfl
      · cases h

/-- An instruction that fires runs its own program in the state that notes its firing. -/
theorem fireWith_eq {i : Instr} {k : Fired → Act} {s : State} {f : Fired} (h : Fires i s f) :
    fireWith i k s = .next ((k f).run (s.noted f)) := by
  obtain ⟨h1, h2, h3⟩ := h
  have hp : (f.sh.p != .always && !f.p.isVec && !scalarMatch f.sh.p f.p) = false := by
    rcases h3 with h3 | h3 | h3 <;> simp [h3]
  simp only [fireWith, h1, h2, hp, Bool.false_eq_true, if_false, Act.run_all_cons, Act.run_all_nil, run_markFired]
  rfl

/-- An instruction whose scalar predicate does not match delivers an all-null result by the end of the cycle. -/
theorem fireWith_off {i : Instr} {k : Fired → Act} {s : State} {f : Fired} (h : s.fired? i = some f) (hk : kindCheck f = none)
    (hp : (f.sh.p != .always && !f.p.isVec && !scalarMatch f.sh.p f.p) = true) :
    fireWith i k s = .next (s.deliversNull f) := by
  simp only [fireWith, h, hk, hp, if_true, Act.run_all_cons, Act.run_all_nil, run_markFired, deliver, run_modInst]
  rw [State.withInst_withInst]
  rfl

/-- What a firing answers: the fault where no instance runs under the cursor, else a next state. -/
theorem fireWith_cases (i : Instr) (k : Fired → Act) (s : State) :
    (s.fired? i = none ∧ fireWith i k s = .fault .noInstance) ∨
    ∃ f, s.fired? i = some f ∧ (fireWith i k s = .next ((k f).run (s.noted f)) ∨ fireWith i k s = .next (s.deliversNull f) ∨
      ∃ c lat, fireWith i k s = .next ((failAt f.core f.rid f.idx c).run (s.afterFor f lat id))) := by
  cases h : s.fired? i with
  | none => exact .inl ⟨rfl, by simp only [fireWith, h]⟩
  | some f =>
    refine .inr ⟨f, rfl, ?_⟩
    cases hk : kindCheck f with
    | some c =>
      refine .inr (.inr ⟨c, if (f.sh.p != .always && !f.p.isVec && !scalarMatch f.sh.p f.p) = true then 1 else f.sh.lat, ?_⟩)
      simp only [fireWith, h, hk, Act.run_all_cons, Act.run_all_nil, run_markFired]
      rfl
    | none =>
      by_cases hp : (f.sh.p != .always && !f.p.isVec && !scalarMatch f.sh.p f.p) = true
      · exact .inr (.inl (fireWith_off h hk hp))
      · refine .inl ?_
        simp only [fireWith, h, hk, hp, Act.run_all_cons, Act.run_all_nil, run_markFired]
        rfl

/-- What a token instruction reads does not depend on its own firing. -/
theorem opnds_noted (s : State) (f : Fired) : opnds (s.noted f) f = opnds s f := rfl

/-- A token instruction delivers its result and its flags, and changes nothing else. -/
theorem fireToken_eq {i : Instr} {g : Opnds → Res} {s : State} {f : Fired} (h : Fires i s f) :
    fireToken i g s = .next (s.delivers f (g (opnds s f)).out (g (opnds s f)).flags) := by
  simp only [fireToken, fireWith_eq h, Act.run_get, Act.run_all_cons, Act.run_all_nil, addFlags, run_modInst, deliver,
    State.noted_withInst, opnds_noted, State.noted_cycle]
  simp only [State.after, State.afterFor, State.withInst_withInst, State.delivers, Fired.tokens]

/-- Operands without poison or null go on to the program. -/
theorem withOperands_eq {f : Fired} {consumed used : List Token} {k : Act} (h : usable consumed used) :
    withOperands f consumed used k = k := by simp [withOperands, h.1, h.2]

/-- Checks that hold go on to the program. -/
theorem require_eq {f : Fired} {checks : List (Bool × Nat)} {k : Act} (h : ∀ c ∈ checks, c.1 = true) :
    require f checks k = k := by
  have : checks.find? (fun c => !c.1) = none := by simpa using h
  simp [require, this]

/-- An exit whose operands are usable and whose checks hold is taken. -/
theorem run_takeExit {f : Fired} {kind : ExitKind} {target : Nat} {used : List Token} {checks : List (Bool × Nat)} {s : State}
    (h : usable used used) (hc : ∀ c ∈ checks, c.1 = true) (he : f.slot.inst.exit = none) :
    (takeExit f kind target used checks).run (s.noted f) = s.takesExit f kind target := by
  have : checks.find? (fun c => !c.1) = none := by simpa using hc
  simp [takeExit, h.1, h.2, this, he, State.takesExit]

/-- A held effect. -/
theorem run_addEffect (f : Fired) (e : Effect) (s : State) :
    (addEffect f e).run (s.noted f) = s.holdsEffect f e := by
  simp [addEffect, State.holdsEffect]

end Sys2Proof.Machine
end

