-- ==== Sys2Proof/Laws/Scalar.lean ====
section
/-!
SUPPORT. Laws of scalar results: integers of 64-bit words (R163, R168) and what `scalarOp` gives for one and two operands (R223).
-/

namespace Sys2Proof.Machine

/-- The low 64 bits of an integer as a word. -/
@[simp] theorem ofNat_wrap (i : Int) : BitVec.ofNat 64 (wrap 64 i) = BitVec.ofInt 64 i := by
  apply BitVec.eq_of_toNat_eq
  simp only [wrap, BitVec.toNat_ofNat, BitVec.toNat_ofInt]
  have h : ((2 : Int) ^ 64) = ((2 ^ 64 : Nat) : Int) := by norm_num
  rw [h]
  omega

@[simp] theorem laneInt_i64 (v : Word64) : laneInt .i64 v.toNat = v.toInt := by
  have h := v.isLt
  have e : laneInt .i64 v.toNat
      = if v.toNat % 2 ^ 64 < 2 ^ 63 then ((v.toNat % 2 ^ 64 : Nat) : Int) else ((v.toNat % 2 ^ 64 : Nat) : Int) - 2 ^ 64 := rfl
  rw [e, BitVec.toInt]
  split <;> split <;> omega

@[simp] theorem laneInt_n64 (v : Word64) : laneInt .n64 v.toNat = v.toNat := by
  have := v.isLt
  simp [laneInt, LaneType.isSigned, LaneType.width, Nat.mod_eq_of_lt this]

/-- One scalar operand that is not null. -/
theorem scalarOp_one (v : Word64) (q : Bool) (f : List Nat → Nat) :
    scalarOp [.sca (some (v, q))] f = { out := .sca (some (BitVec.ofNat 64 (f [v.toNat]), q)) } := by
  simp [scalarOp, Token.allNull, Token.poisoned, Token.num, Token.ofNat]

/-- Two scalar operands that are not null. -/
theorem scalarOp_two (v w : Word64) (q r : Bool) (f : List Nat → Nat) :
    scalarOp [.sca (some (v, q)), .sca (some (w, r))] f
      = { out := .sca (some (BitVec.ofNat 64 (f [v.toNat, w.toNat]), q || r)) } := by
  simp [scalarOp, Token.allNull, Token.poisoned, Token.num, Token.ofNat]

/-- A null operand gives a null result. -/
theorem scalarOp_null {toks : List Token} (f : List Nat → Nat) (h : Token.sca none ∈ toks) :
    scalarOp toks f = { out := .sca none } := by
  have : toks.any Token.allNull = true := List.any_eq_true.2 ⟨_, h, rfl⟩
  simp [scalarOp, this, Token.nullSca]

theorem intOp2_eq {t : LaneType} {o : Opnds} {v w : Word64} {q r : Bool} (f : Int → Int → Nat)
    (ha : o.a = .sca (some (v, q))) (hb : o.b = .sca (some (w, r))) :
    intOp2 t o f = { out := .sca (some (BitVec.ofNat 64 (f (laneInt t v.toNat) (laneInt t w.toNat)), q || r)) } := by
  simp [intOp2, ha, hb, scalarOp_two]

theorem intOp1_eq {t : LaneType} {o : Opnds} {v : Word64} {q : Bool} (f : Int → Nat)
    (ha : o.a = .sca (some (v, q))) :
    intOp1 t o f = { out := .sca (some (BitVec.ofNat 64 (f (laneInt t v.toNat)), q)) } := by
  simp [intOp1, ha, scalarOp_one]

@[simp] theorem opnds_a (s : State) (f : Fired) : (opnds s f).a = f.a := rfl
@[simp] theorem opnds_b (s : State) (f : Fired) : (opnds s f).b = f.b := rfl
@[simp] theorem opnds_c (s : State) (f : Fired) : (opnds s f).c = f.c := rfl
@[simp] theorem opnds_mask (s : State) (f : Fired) : (opnds s f).mask = maskOf f.sh.p f.p := rfl

end Sys2Proof.Machine
end

