-- ==== Sys2Proof/Laws/State.lean ====
section
/-!
SUPPORT. Laws of the named updates of a state: what each changes, and one lemma for each field that it leaves alone; the tables that
the state holds.
-/

namespace Sys2Proof.Machine

/-! ### Tables -/

/-- A key that has been set reads as it was set. -/
@[simp] theorem Tab.find?_set_same {α : Type} (t : List (Nat × α)) (a : Nat) (v : α) : Tab.find? (Tab.set t a v) a = some v := by
  induction t with
  | nil => simp [Tab.set, Tab.find?]
  | cons e t ih =>
    simp only [Tab.set]
    split
    · simp [Tab.find?]
    · split
      · simp [Tab.find?]
      · rename_i h
        simp [Tab.find?, Ne.symm h, ih]

/-- Every other key reads as before. -/
theorem Tab.find?_set_other {α : Type} (t : List (Nat × α)) {a b : Nat} (v : α) (h : a ≠ b) :
    Tab.find? (Tab.set t a v) b = Tab.find? t b := by
  induction t with
  | nil => simp [Tab.set, Tab.find?, h]
  | cons e t ih =>
    simp only [Tab.set]
    split
    · simp [Tab.find?, h]
    · split
      · rename_i hk
        simp [Tab.find?, h, hk ▸ h]
      · simp [Tab.find?, ih]

/-! ### What an update changes -/

@[simp] theorem run_modCore_coreSt (c : Nat) (f : CoreSt → CoreSt) (s : State) : ((modCore c f).run s).coreSt c = f (s.coreSt c) := by
  simp [modCore, State.coreSt]

theorem run_modCore_coreSt_other {c d : Nat} (f : CoreSt → CoreSt) (s : State) (h : c ≠ d) :
    ((modCore c f).run s).coreSt d = s.coreSt d := by
  simp [modCore, State.coreSt, Tab.find?_set_other _ _ h]

@[simp] theorem run_modCluster_clusterSt (c : Nat) (f : ClusterSt → ClusterSt) (s : State) :
    ((modCluster c f).run s).clusterSt c = f (s.clusterSt c) := by
  simp [modCluster, State.clusterSt]

@[simp] theorem run_modFunc_func (g : Nat) (f : FuncSt → FuncSt) (s : State) : ((modFunc g f).run s).func g = f (s.func g) := by
  simp [modFunc, State.func]

theorem run_modFunc_func_other {g h : Nat} (f : FuncSt → FuncSt) (s : State) (ne : g ≠ h) :
    ((modFunc g f).run s).func h = s.func h := by
  simp [modFunc, State.func, Tab.find?_set_other _ _ ne]

@[simp] theorem run_send_mesh (m : Msg) (s : State) : ((send m).run s).mesh = s.mesh ++ [{ m with since := s.cycle }] := rfl

@[simp] theorem run_modGang_gangs (g : Nat) (f : Gang → Gang) (s : State) :
    ((modGang g f).run s).gangs = s.gangs.map fun x => if x.id == g then f x else x := rfl

@[simp] theorem run_modRow_row (core rid : Nat) (f : RowSt → RowSt) (s : State) :
    ((modRow core rid f).run s).row? core rid = (s.row? core rid).map f := by
  have h : ((modRow core rid f).run s).rows
      = match s.row? core rid with | some r => Tab.set s.rows (512 * core + rid) (f r) | none => s.rows := by
    simp only [modRow, run_upd]; split <;> simp_all
  rw [State.row?, h]
  split
  · rename_i r hr; simp [hr]
  · rename_i hr; rw [hr]; exact hr

/-! ### What an update leaves alone -/

@[simp] theorem run_modCore_mem (c : Nat) (f : CoreSt → CoreSt) (s : State) : ((modCore c f).run s).mem = s.mem := rfl
@[simp] theorem run_modCore_cycle (c : Nat) (f : CoreSt → CoreSt) (s : State) : ((modCore c f).run s).cycle = s.cycle := rfl
@[simp] theorem run_modCore_time (c : Nat) (f : CoreSt → CoreSt) (s : State) : ((modCore c f).run s).time = s.time := rfl
@[simp] theorem run_modCore_clusters (c : Nat) (f : CoreSt → CoreSt) (s : State) : ((modCore c f).run s).clusters = s.clusters := rfl
@[simp] theorem run_modCore_funcs (c : Nat) (f : CoreSt → CoreSt) (s : State) : ((modCore c f).run s).funcs = s.funcs := rfl
@[simp] theorem run_modCore_rows (c : Nat) (f : CoreSt → CoreSt) (s : State) : ((modCore c f).run s).rows = s.rows := rfl
@[simp] theorem run_modCore_slots (c : Nat) (f : CoreSt → CoreSt) (s : State) : ((modCore c f).run s).slots = s.slots := rfl
@[simp] theorem run_modCore_gangs (c : Nat) (f : CoreSt → CoreSt) (s : State) : ((modCore c f).run s).gangs = s.gangs := rfl
@[simp] theorem run_modCore_mesh (c : Nat) (f : CoreSt → CoreSt) (s : State) : ((modCore c f).run s).mesh = s.mesh := rfl
@[simp] theorem run_modCore_accs (c : Nat) (f : CoreSt → CoreSt) (s : State) : ((modCore c f).run s).accs = s.accs := rfl
@[simp] theorem run_modCore_poison (c : Nat) (f : CoreSt → CoreSt) (s : State) : ((modCore c f).run s).poison = s.poison := rfl
@[simp] theorem run_modCore_guard (c : Nat) (f : CoreSt → CoreSt) (s : State) : ((modCore c f).run s).guard = s.guard := rfl
@[simp] theorem run_modCore_freeCtr (c : Nat) (f : CoreSt → CoreSt) (s : State) : ((modCore c f).run s).freeCtr = s.freeCtr := rfl

@[simp] theorem run_modCluster_mem (c : Nat) (f : ClusterSt → ClusterSt) (s : State) : ((modCluster c f).run s).mem = s.mem := rfl
@[simp] theorem run_modCluster_cycle (c : Nat) (f : ClusterSt → ClusterSt) (s : State) : ((modCluster c f).run s).cycle = s.cycle := rfl
@[simp] theorem run_modCluster_time (c : Nat) (f : ClusterSt → ClusterSt) (s : State) : ((modCluster c f).run s).time = s.time := rfl
@[simp] theorem run_modCluster_cores (c : Nat) (f : ClusterSt → ClusterSt) (s : State) : ((modCluster c f).run s).cores = s.cores := rfl
@[simp] theorem run_modCluster_funcs (c : Nat) (f : ClusterSt → ClusterSt) (s : State) : ((modCluster c f).run s).funcs = s.funcs := rfl
@[simp] theorem run_modCluster_rows (c : Nat) (f : ClusterSt → ClusterSt) (s : State) : ((modCluster c f).run s).rows = s.rows := rfl
@[simp] theorem run_modCluster_slots (c : Nat) (f : ClusterSt → ClusterSt) (s : State) : ((modCluster c f).run s).slots = s.slots := rfl
@[simp] theorem run_modCluster_gangs (c : Nat) (f : ClusterSt → ClusterSt) (s : State) : ((modCluster c f).run s).gangs = s.gangs := rfl
@[simp] theorem run_modCluster_mesh (c : Nat) (f : ClusterSt → ClusterSt) (s : State) : ((modCluster c f).run s).mesh = s.mesh := rfl
@[simp] theorem run_modCluster_accs (c : Nat) (f : ClusterSt → ClusterSt) (s : State) : ((modCluster c f).run s).accs = s.accs := rfl
@[simp] theorem run_modCluster_poison (c : Nat) (f : ClusterSt → ClusterSt) (s : State) : ((modCluster c f).run s).poison = s.poison := rfl
@[simp] theorem run_modCluster_guard (c : Nat) (f : ClusterSt → ClusterSt) (s : State) : ((modCluster c f).run s).guard = s.guard := rfl
@[simp] theorem run_modCluster_freeCtr (c : Nat) (f : ClusterSt → ClusterSt) (s : State) : ((modCluster c f).run s).freeCtr = s.freeCtr := rfl

@[simp] theorem run_modFunc_mem (g : Nat) (f : FuncSt → FuncSt) (s : State) : ((modFunc g f).run s).mem = s.mem := rfl
@[simp] theorem run_modFunc_cycle (g : Nat) (f : FuncSt → FuncSt) (s : State) : ((modFunc g f).run s).cycle = s.cycle := rfl
@[simp] theorem run_modFunc_time (g : Nat) (f : FuncSt → FuncSt) (s : State) : ((modFunc g f).run s).time = s.time := rfl
@[simp] theorem run_modFunc_cores (g : Nat) (f : FuncSt → FuncSt) (s : State) : ((modFunc g f).run s).cores = s.cores := rfl
@[simp] theorem run_modFunc_clusters (g : Nat) (f : FuncSt → FuncSt) (s : State) : ((modFunc g f).run s).clusters = s.clusters := rfl
@[simp] theorem run_modFunc_rows (g : Nat) (f : FuncSt → FuncSt) (s : State) : ((modFunc g f).run s).rows = s.rows := rfl
@[simp] theorem run_modFunc_slots (g : Nat) (f : FuncSt → FuncSt) (s : State) : ((modFunc g f).run s).slots = s.slots := rfl
@[simp] theorem run_modFunc_gangs (g : Nat) (f : FuncSt → FuncSt) (s : State) : ((modFunc g f).run s).gangs = s.gangs := rfl
@[simp] theorem run_modFunc_mesh (g : Nat) (f : FuncSt → FuncSt) (s : State) : ((modFunc g f).run s).mesh = s.mesh := rfl
@[simp] theorem run_modFunc_accs (g : Nat) (f : FuncSt → FuncSt) (s : State) : ((modFunc g f).run s).accs = s.accs := rfl
@[simp] theorem run_modFunc_poison (g : Nat) (f : FuncSt → FuncSt) (s : State) : ((modFunc g f).run s).poison = s.poison := rfl
@[simp] theorem run_modFunc_guard (g : Nat) (f : FuncSt → FuncSt) (s : State) : ((modFunc g f).run s).guard = s.guard := rfl
@[simp] theorem run_modFunc_freeCtr (g : Nat) (f : FuncSt → FuncSt) (s : State) : ((modFunc g f).run s).freeCtr = s.freeCtr := rfl

@[simp] theorem run_modGang_mem (g : Nat) (f : Gang → Gang) (s : State) : ((modGang g f).run s).mem = s.mem := rfl
@[simp] theorem run_modGang_cycle (g : Nat) (f : Gang → Gang) (s : State) : ((modGang g f).run s).cycle = s.cycle := rfl
@[simp] theorem run_modGang_time (g : Nat) (f : Gang → Gang) (s : State) : ((modGang g f).run s).time = s.time := rfl
@[simp] theorem run_modGang_cores (g : Nat) (f : Gang → Gang) (s : State) : ((modGang g f).run s).cores = s.cores := rfl
@[simp] theorem run_modGang_clusters (g : Nat) (f : Gang → Gang) (s : State) : ((modGang g f).run s).clusters = s.clusters := rfl
@[simp] theorem run_modGang_funcs (g : Nat) (f : Gang → Gang) (s : State) : ((modGang g f).run s).funcs = s.funcs := rfl
@[simp] theorem run_modGang_rows (g : Nat) (f : Gang → Gang) (s : State) : ((modGang g f).run s).rows = s.rows := rfl
@[simp] theorem run_modGang_slots (g : Nat) (f : Gang → Gang) (s : State) : ((modGang g f).run s).slots = s.slots := rfl
@[simp] theorem run_modGang_mesh (g : Nat) (f : Gang → Gang) (s : State) : ((modGang g f).run s).mesh = s.mesh := rfl
@[simp] theorem run_modGang_accs (g : Nat) (f : Gang → Gang) (s : State) : ((modGang g f).run s).accs = s.accs := rfl
@[simp] theorem run_modGang_poison (g : Nat) (f : Gang → Gang) (s : State) : ((modGang g f).run s).poison = s.poison := rfl
@[simp] theorem run_modGang_guard (g : Nat) (f : Gang → Gang) (s : State) : ((modGang g f).run s).guard = s.guard := rfl
@[simp] theorem run_modGang_freeCtr (g : Nat) (f : Gang → Gang) (s : State) : ((modGang g f).run s).freeCtr = s.freeCtr := rfl

@[simp] theorem run_send_mem (m : Msg) (s : State) : ((send m).run s).mem = s.mem := rfl
@[simp] theorem run_send_cycle (m : Msg) (s : State) : ((send m).run s).cycle = s.cycle := rfl
@[simp] theorem run_send_time (m : Msg) (s : State) : ((send m).run s).time = s.time := rfl
@[simp] theorem run_send_cores (m : Msg) (s : State) : ((send m).run s).cores = s.cores := rfl
@[simp] theorem run_send_clusters (m : Msg) (s : State) : ((send m).run s).clusters = s.clusters := rfl
@[simp] theorem run_send_funcs (m : Msg) (s : State) : ((send m).run s).funcs = s.funcs := rfl
@[simp] theorem run_send_rows (m : Msg) (s : State) : ((send m).run s).rows = s.rows := rfl
@[simp] theorem run_send_slots (m : Msg) (s : State) : ((send m).run s).slots = s.slots := rfl
@[simp] theorem run_send_gangs (m : Msg) (s : State) : ((send m).run s).gangs = s.gangs := rfl
@[simp] theorem run_send_accs (m : Msg) (s : State) : ((send m).run s).accs = s.accs := rfl
@[simp] theorem run_send_poison (m : Msg) (s : State) : ((send m).run s).poison = s.poison := rfl
@[simp] theorem run_send_guard (m : Msg) (s : State) : ((send m).run s).guard = s.guard := rfl
@[simp] theorem run_send_freeCtr (m : Msg) (s : State) : ((send m).run s).freeCtr = s.freeCtr := rfl

@[simp] theorem run_modSlot_mem (core rid : Nat) (f : Slot → Slot) (s : State) : ((modSlot core rid f).run s).mem = s.mem := rfl
@[simp] theorem run_modSlot_cycle (core rid : Nat) (f : Slot → Slot) (s : State) : ((modSlot core rid f).run s).cycle = s.cycle := rfl
@[simp] theorem run_modSlot_time (core rid : Nat) (f : Slot → Slot) (s : State) : ((modSlot core rid f).run s).time = s.time := rfl
@[simp] theorem run_modSlot_cores (core rid : Nat) (f : Slot → Slot) (s : State) : ((modSlot core rid f).run s).cores = s.cores := rfl
@[simp] theorem run_modSlot_clusters (core rid : Nat) (f : Slot → Slot) (s : State) : ((modSlot core rid f).run s).clusters = s.clusters := rfl
@[simp] theorem run_modSlot_funcs (core rid : Nat) (f : Slot → Slot) (s : State) : ((modSlot core rid f).run s).funcs = s.funcs := rfl
@[simp] theorem run_modSlot_rows (core rid : Nat) (f : Slot → Slot) (s : State) : ((modSlot core rid f).run s).rows = s.rows := rfl
@[simp] theorem run_modSlot_gangs (core rid : Nat) (f : Slot → Slot) (s : State) : ((modSlot core rid f).run s).gangs = s.gangs := rfl
@[simp] theorem run_modSlot_mesh (core rid : Nat) (f : Slot → Slot) (s : State) : ((modSlot core rid f).run s).mesh = s.mesh := rfl
@[simp] theorem run_modSlot_accs (core rid : Nat) (f : Slot → Slot) (s : State) : ((modSlot core rid f).run s).accs = s.accs := rfl
@[simp] theorem run_modSlot_poison (core rid : Nat) (f : Slot → Slot) (s : State) : ((modSlot core rid f).run s).poison = s.poison := rfl
@[simp] theorem run_modSlot_guard (core rid : Nat) (f : Slot → Slot) (s : State) : ((modSlot core rid f).run s).guard = s.guard := rfl
@[simp] theorem run_modSlot_freeCtr (core rid : Nat) (f : Slot → Slot) (s : State) : ((modSlot core rid f).run s).freeCtr = s.freeCtr := rfl

@[simp] theorem run_putLe_cycle (a n v : Nat) (s : State) : ((putLe a n v).run s).cycle = s.cycle := rfl
@[simp] theorem run_putLe_time (a n v : Nat) (s : State) : ((putLe a n v).run s).time = s.time := rfl
@[simp] theorem run_putLe_cores (a n v : Nat) (s : State) : ((putLe a n v).run s).cores = s.cores := rfl
@[simp] theorem run_putLe_clusters (a n v : Nat) (s : State) : ((putLe a n v).run s).clusters = s.clusters := rfl
@[simp] theorem run_putLe_funcs (a n v : Nat) (s : State) : ((putLe a n v).run s).funcs = s.funcs := rfl
@[simp] theorem run_putLe_rows (a n v : Nat) (s : State) : ((putLe a n v).run s).rows = s.rows := rfl
@[simp] theorem run_putLe_slots (a n v : Nat) (s : State) : ((putLe a n v).run s).slots = s.slots := rfl
@[simp] theorem run_putLe_gangs (a n v : Nat) (s : State) : ((putLe a n v).run s).gangs = s.gangs := rfl
@[simp] theorem run_putLe_mesh (a n v : Nat) (s : State) : ((putLe a n v).run s).mesh = s.mesh := rfl
@[simp] theorem run_putLe_accs (a n v : Nat) (s : State) : ((putLe a n v).run s).accs = s.accs := rfl
@[simp] theorem run_putLe_poison (a n v : Nat) (s : State) : ((putLe a n v).run s).poison = s.poison := rfl
@[simp] theorem run_putLe_guard (a n v : Nat) (s : State) : ((putLe a n v).run s).guard = s.guard := rfl
@[simp] theorem run_putLe_freeCtr (a n v : Nat) (s : State) : ((putLe a n v).run s).freeCtr = s.freeCtr := rfl

@[simp] theorem run_wipe_cycle (a n : Nat) (s : State) : ((wipe a n).run s).cycle = s.cycle := rfl
@[simp] theorem run_wipe_time (a n : Nat) (s : State) : ((wipe a n).run s).time = s.time := rfl
@[simp] theorem run_wipe_cores (a n : Nat) (s : State) : ((wipe a n).run s).cores = s.cores := rfl
@[simp] theorem run_wipe_clusters (a n : Nat) (s : State) : ((wipe a n).run s).clusters = s.clusters := rfl
@[simp] theorem run_wipe_funcs (a n : Nat) (s : State) : ((wipe a n).run s).funcs = s.funcs := rfl
@[simp] theorem run_wipe_rows (a n : Nat) (s : State) : ((wipe a n).run s).rows = s.rows := rfl
@[simp] theorem run_wipe_slots (a n : Nat) (s : State) : ((wipe a n).run s).slots = s.slots := rfl
@[simp] theorem run_wipe_gangs (a n : Nat) (s : State) : ((wipe a n).run s).gangs = s.gangs := rfl
@[simp] theorem run_wipe_mesh (a n : Nat) (s : State) : ((wipe a n).run s).mesh = s.mesh := rfl
@[simp] theorem run_wipe_accs (a n : Nat) (s : State) : ((wipe a n).run s).accs = s.accs := rfl
@[simp] theorem run_wipe_poison (a n : Nat) (s : State) : ((wipe a n).run s).poison = s.poison := rfl
@[simp] theorem run_wipe_guard (a n : Nat) (s : State) : ((wipe a n).run s).guard = s.guard := rfl
@[simp] theorem run_wipe_freeCtr (a n : Nat) (s : State) : ((wipe a n).run s).freeCtr = s.freeCtr := rfl

@[simp] theorem run_modRow_mem (core rid : Nat) (f : RowSt → RowSt) (s : State) : ((modRow core rid f).run s).mem = s.mem := rfl
@[simp] theorem run_modRow_cycle (core rid : Nat) (f : RowSt → RowSt) (s : State) : ((modRow core rid f).run s).cycle = s.cycle := by
  simp only [modRow, run_upd]
  split <;> rfl
@[simp] theorem run_modRow_time (core rid : Nat) (f : RowSt → RowSt) (s : State) : ((modRow core rid f).run s).time = s.time := by
  simp only [modRow, run_upd]
  split <;> rfl
@[simp] theorem run_modRow_cores (core rid : Nat) (f : RowSt → RowSt) (s : State) : ((modRow core rid f).run s).cores = s.cores := by
  simp only [modRow, run_upd]
  split <;> rfl
@[simp] theorem run_modRow_clusters (core rid : Nat) (f : RowSt → RowSt) (s : State) : ((modRow core rid f).run s).clusters = s.clusters := by
  simp only [modRow, run_upd]
  split <;> rfl
@[simp] theorem run_modRow_funcs (core rid : Nat) (f : RowSt → RowSt) (s : State) : ((modRow core rid f).run s).funcs = s.funcs := by
  simp only [modRow, run_upd]
  split <;> rfl
@[simp] theorem run_modRow_slots (core rid : Nat) (f : RowSt → RowSt) (s : State) : ((modRow core rid f).run s).slots = s.slots := by
  simp only [modRow, run_upd]
  split <;> rfl
@[simp] theorem run_modRow_gangs (core rid : Nat) (f : RowSt → RowSt) (s : State) : ((modRow core rid f).run s).gangs = s.gangs := by
  simp only [modRow, run_upd]
  split <;> rfl
@[simp] theorem run_modRow_mesh (core rid : Nat) (f : RowSt → RowSt) (s : State) : ((modRow core rid f).run s).mesh = s.mesh := by
  simp only [modRow, run_upd]
  split <;> rfl
@[simp] theorem run_modRow_accs (core rid : Nat) (f : RowSt → RowSt) (s : State) : ((modRow core rid f).run s).accs = s.accs := by
  simp only [modRow, run_upd]
  split <;> rfl
@[simp] theorem run_modRow_poison (core rid : Nat) (f : RowSt → RowSt) (s : State) : ((modRow core rid f).run s).poison = s.poison := by
  simp only [modRow, run_upd]
  split <;> rfl
@[simp] theorem run_modRow_guard (core rid : Nat) (f : RowSt → RowSt) (s : State) : ((modRow core rid f).run s).guard = s.guard := by
  simp only [modRow, run_upd]
  split <;> rfl
@[simp] theorem run_modRow_freeCtr (core rid : Nat) (f : RowSt → RowSt) (s : State) : ((modRow core rid f).run s).freeCtr = s.freeCtr := by
  simp only [modRow, run_upd]
  split <;> rfl

/-! ### Issue, time and the steps around exec -/

@[simp] theorem State.issue_cursor (s : State) (core rid idx : Nat) (sp : Bool) : (s.issue core rid idx sp).cursor = some (core, rid, idx) := rfl
@[simp] theorem State.issue_mem (s : State) (core rid idx : Nat) (sp : Bool) : (s.issue core rid idx sp).mem = s.mem := rfl
@[simp] theorem State.issue_cycle (s : State) (core rid idx : Nat) (sp : Bool) : (s.issue core rid idx sp).cycle = s.cycle := rfl
@[simp] theorem State.issue_time (s : State) (core rid idx : Nat) (sp : Bool) : (s.issue core rid idx sp).time = s.time := rfl
@[simp] theorem State.issue_clusters (s : State) (core rid idx : Nat) (sp : Bool) : (s.issue core rid idx sp).clusters = s.clusters := rfl
@[simp] theorem State.issue_funcs (s : State) (core rid idx : Nat) (sp : Bool) : (s.issue core rid idx sp).funcs = s.funcs := rfl
@[simp] theorem State.issue_rows (s : State) (core rid idx : Nat) (sp : Bool) : (s.issue core rid idx sp).rows = s.rows := rfl
@[simp] theorem State.issue_slots (s : State) (core rid idx : Nat) (sp : Bool) : (s.issue core rid idx sp).slots = s.slots := rfl
@[simp] theorem State.issue_gangs (s : State) (core rid idx : Nat) (sp : Bool) : (s.issue core rid idx sp).gangs = s.gangs := rfl
@[simp] theorem State.issue_mesh (s : State) (core rid idx : Nat) (sp : Bool) : (s.issue core rid idx sp).mesh = s.mesh := rfl
@[simp] theorem State.issue_accs (s : State) (core rid idx : Nat) (sp : Bool) : (s.issue core rid idx sp).accs = s.accs := rfl
@[simp] theorem State.issue_poison (s : State) (core rid idx : Nat) (sp : Bool) : (s.issue core rid idx sp).poison = s.poison := rfl
@[simp] theorem State.issue_guard (s : State) (core rid idx : Nat) (sp : Bool) : (s.issue core rid idx sp).guard = s.guard := rfl
@[simp] theorem State.issue_freeCtr (s : State) (core rid idx : Nat) (sp : Bool) : (s.issue core rid idx sp).freeCtr = s.freeCtr := rfl

@[simp] theorem passTime_cycle (s : State) : (passTime s).cycle = s.cycle + 1 := rfl
@[simp] theorem passTime_mem (s : State) : (passTime s).mem = s.mem := rfl
@[simp] theorem passTime_cores (s : State) : (passTime s).cores = s.cores := rfl
@[simp] theorem passTime_clusters (s : State) : (passTime s).clusters = s.clusters := rfl
@[simp] theorem passTime_funcs (s : State) : (passTime s).funcs = s.funcs := rfl
@[simp] theorem passTime_rows (s : State) : (passTime s).rows = s.rows := rfl
@[simp] theorem passTime_slots (s : State) : (passTime s).slots = s.slots := rfl
@[simp] theorem passTime_gangs (s : State) : (passTime s).gangs = s.gangs := rfl
@[simp] theorem passTime_mesh (s : State) : (passTime s).mesh = s.mesh := rfl
@[simp] theorem passTime_accs (s : State) : (passTime s).accs = s.accs := rfl
@[simp] theorem passTime_poison (s : State) : (passTime s).poison = s.poison := rfl
@[simp] theorem passTime_guard (s : State) : (passTime s).guard = s.guard := rfl
@[simp] theorem passTime_freeCtr (s : State) : (passTime s).freeCtr = s.freeCtr := rfl

/-- A step with work left runs the first piece of it; without, the next cycle begins. -/
theorem step_cases (s : State) :
    (s.work = [] ∧ step s = .next (nextCycle s)) ∨ (∃ w rest, s.work = w :: rest ∧ step s = runWork w { s with work := rest }) := by
  cases h : s.work with
  | nil => exact .inl ⟨rfl, by simp [step, h]⟩
  | cons w rest => exact .inr ⟨w, rest, rfl, by simp [step, h]⟩

end Sys2Proof.Machine
end

