-- ==== Sys2Proof/Tests/Slice0.lean ====
section
/-!
SUPPORT. Tests. Words and results are the spec's own examples, or worked out by hand from its tables; the witnesses show, for each
statement of Certificates/Slice0/Obligations.lean, a state and operands that meet its hypotheses.
-/

open Sys2Proof Sys2Proof.Machine

set_option Elab.async false

namespace Sys2Proof.Tests

/-! ### Decoding -/

/-- Words that the spec writes out: of listing line n45 (02_annotated_listing.md), and the examples of 08, 09 and 10. -/
theorem test_decode_token_instructions :
    decodeTableWord 16 0x4504 = some (.vmul_F16 0x45 .i32)
    ∧ decodeTableWord 32 0x78380061 = some (.vadd .rne 0xE0 0xE0 .always .i32)
    ∧ decodeTableWord 32 0x01388D57 = some (.addis 4 0xE2 .always .i64)
    ∧ decodeTableWord 32 0x00000B21 = some (.movi 0 0x0B)
    ∧ decodeTableWord 32 0x00040007 = some (.loop 16 .always)
    ∧ decodeTableWord 32 0x00040321 = some (.movi 4 3)
    ∧ decodeTableWord 32 0x33730D2D = some (.tlt 0xCD 0xCC .always .i64)
    ∧ decodeTableWord 32 0x78380669 = some (.vfma .rne 0xE0 0xE0 .always .fp32)
    ∧ decodeTableWord 32 0x81B84091 = some (.vcvt 2 .fp32 0xE1 .always .i32) := by decide +kernel

/-- Words that the spec writes out: of listing line n43 (02_annotated_listing.md), and the examples of 11 and 12. -/
theorem test_decode_memory_instructions :
    decodeTableWord 32 0x000140E1 = some (.tidset 0 5 .always)
    ∧ decodeTableWord 32 0x200040E3 = some (.mxmul 2 true .always)
    ∧ decodeTableWord 32 0x100001E9 = some (.plunp 1 .always)
    ∧ decodeTableWord 32 0x300000EB = some (.pldlt 3 .always)
    ∧ decodeTableWord 32 0x402080D3 = some (.hsnd 4 false 4 0 true false .always)
    ∧ decodeTableWord 32 0x000081B5 = some (.lds 0 0 2 .always .n32)
    ∧ decodeTableWord 32 0x003800B1 = some (.ldv 0 0 0xE0 .always)
    ∧ decodeTableWord 32 0x2FC14DB5 = some (.lds 2 0x3F 5 .always .i64)
    ∧ decodeTableWord 32 0x10384EC1 = some (.aop 1 0 0xE1 .always .n64) := by decide +kernel

/-- Reserved P, reserved T, an OP that is no instruction and an IMM10 out of range are refused (R197, R199, R203, R223). -/
theorem test_decode_refuses :
    decodeTableWord 32 0x78383061 = none ∧ decodeTableWord 32 0x78380F61 = none ∧ decodeTableWord 32 0x00000009 = none
    ∧ decodeTableWord 32 (0x010 * 2 ^ 26 + 0x0D00 + 0x5B) = none ∧ decodeTableWord 32 0x01B80061 = some (.vadd .row 0x06 0xE0 .always .i32) := by
  decide +kernel

/-- One ill-formed term for each check of `Instr.wf`. -/
theorem test_wf_refuses :
    ([.adds .row 0 0 .always .i32, .adds .rtz 0 0 .always .i64, .mulhs 0 0 .always .i32, .shis 64 0 .always .i64, .shis 0x3C0 0 .always .i64,
      .vadd .rne 0 0 .always .i64, .vadd .srne 0 0 .always .i32, .vmulh 0 0 .always .fp32, .vmin 0 0 .always .n64, .vshl_F16 0 .fp32,
      .vdot .row 0 0 .always .fp32, .vcvt 0 .i32 0 .always .i32, .vcvt 2 .n32 0 .always .i32, .vcvt 0 .i16x2 0 .always .i32,
      .vcvts .row 0 0 .always .n64, .vpack .row 0 0 .always .i32, .vunpk 0 0 .always .fp32, .vrnd 5 0 .always .fp32,
      .vrnd 0 0 .always .dm8x4, .vrand 0 0 .always .i32, .vbce 32 0 .always .i32, .vshuf 0 0 .always .e2m1x8, .vred 6 0 .always .i32,
      .vscan 3 0 .always .i32, .lds 0 0 0 .always .fp32, .ldgv 0 0 0 .always .i64, .aop 0 7 0 .always .i32, .aop 0 0 0 .always .fp32,
      .acas 0 0 .always .fp32, .evsig 0 3 .always, .hget 0 false 6 0 false false .always, .hget 0 false 0 6 false false .always,
      .hgath 0 false 0 0 false false .always .n32, .hsadd 0 false 0 0 false false .always .i32,
      .hsadd 0 true 0 0 false false .always .i64, .plspl 0 6 false false false .always, .fence 0 7 .always,
      .activation 256 0, .activation 0 8, .headerRead 0 0 4, .blockCommit 0 512, .qnotify 513 0 0, .qnotify 0 256 0,
      .grelease 0 65536, .chunkStart 0 64, .prresp 0 0 4, .refmarkLive 262144 0, .refmarkLive 0 65536, .patrolScrub 8, .leaseRevoke 64, .flitReplay 76,
      .hostReadCompletion 0 4, .opaCommandStart 0 4294967296, .keyDestroy 1024, .parttabWrite 512 0, .getVersion 13,
      .lockInterface 513] : List Instr).all (fun i => !i.wf) = true := by decide +kernel

/-! ### A placed instruction -/

/-- The state in which a placed instruction fires, with nothing else left to do. -/
def placed (i : Instr) : State :=
  match encode i with
  | none => State.reset
  | some (n, w) =>
    let s := State.reset.withFetchWord n w
    match s.eligibles 0 0 with
    | (rid, idx, j) :: _ => State.issue { s with work := [] } 0 rid idx (shape j).special
    | [] => s

/-- The same with other operands, in the order of the slots A, B, C and P. -/
def operands (i : Instr) (vals : List Token) : State :=
  let s := placed i
  { s with slots := s.slots.map fun x => { x with inst := { x.inst with
      toks := (x.inst.toks.zip vals).map fun t => { t.1 with val := t.2 } } } }

/-- The instruction under the cursor fires, and more holds of its operands. -/
def fires (i : Instr) (s : State) (ok : Fired → Bool := fun _ => true) : Bool :=
  match s.fired? i with
  | some f => decide (kindCheck f = none) && (f.sh.p == .always || f.p.isVec || scalarMatch f.sh.p f.p) && ok f
  | none => false

theorem fires_spec {i : Instr} {s : State} {ok : Fired → Bool} (h : fires i s ok = true) : ∃ f, Fires i s f ∧ ok f = true := by
  unfold fires at h
  split at h
  · next f hf =>
    simp only [Bool.and_eq_true, Bool.or_eq_true, decide_eq_true_eq, beq_iff_eq] at h
    exact ⟨f, ⟨hf, h.1.1, by tauto⟩, h.2⟩
  · cases h

/-- A next state with a property. -/
def gives (o : Host.Outcome State Fault Refusal) (p : State → Bool) : Bool :=
  match o with
  | .next t => p t
  | _ => false

/-- A scalar and a vector of one word. -/
def sc (v : Nat) : Token := .sca (some (BitVec.ofNat 64 v, false))
def vc (w : Nat) : Token := .vec (List.replicate 32 (some (BitVec.ofNat 32 w, false)))

/-- The last token that a placed instruction has delivered. -/
def delivered (i : Instr) (vals : List Token) : Option Token :=
  match exec i (operands i vals) with
  | .next t => (t.slots.head?.bind fun x => x.inst.toks.getLast?).map (·.val)
  | _ => none

/-- The first lane of it. -/
def lane0 (i : Instr) (vals : List Token) : Option Nat := (delivered i vals).bind fun k => (laneAt k.lanes 0).map (·.1.toNat)

/-! ### Every encoded instruction runs when it is placed (R67) -/

/-- A placed instruction decodes, is eligible and fires. -/
def runs (i : Instr) : Bool := i.wf && fires i (placed i) && gives (exec i (placed i)) fun _ => true

theorem test_exits_run :
    ([.br 0 .always, .brx .onTrue, .call 0 .always, .loop 0 .always, .endl .always, .brkl 0 .onFalse, .waitb 0 .always, .waite 0 .always,
      .waitqr 0 .always, .waitqd 0 .always, .yield 0 .always, .halt 0 .always, .trap 1 .always, .efence 0 .always, .splice .always,
      .forkr 0 .always] : List Instr).all runs = true := by decide +kernel

theorem test_scalars_run :
    ([.movi 0 0, .movih 0 0, .mov 0 0 .always .i32, .mov_F16 0 .i32, .teq 0 0 .always .i64, .teq_F16 0 .i32, .tne 0 0 .onTrue .n64,
      .tlt 0 0 .always .i32, .tlt_F16 0 .fp32, .tle 0 0 .always .fp32, .sel 0 0 .always .i32, .sel_F16 0 .i32, .pand 0 0 .always, .por 0 0 .always,
      .pnot 0 0 .always, .anyl 0 0 .always, .alll 0 0 .always, .adds .row 0 0 .always .i64, .subs .rne 0 0 .onFalse .n64,
      .muls .row 0 0 .always .i64, .mulhs 0 0 .always .n64, .divs .rne 0 0 .always .i64, .rems 0 0 .always .i64, .ands 0 0 .always .i64,
      .ors 0 0 .always .i64, .xors 0 0 .always .i64, .shls .row 0 0 .always .i64, .shrs 0 0 .always .i64, .addis 0 0 .always .i64,
      .andis 0 0 .always .i64, .shis 0x3C1 0 .always .n64, .clzs 0 0 .always, .ctzs 0 0 .always, .popcs 0 0 .always, .mins 0 0 .always true,
      .maxs 0 0 .always false] : List Instr).all runs = true := by decide +kernel

theorem test_vectors_run :
    ([.vadd .srne 0 0 .always .fp32, .vadd_F16 0 .i32, .vsub .row 0 0 .always .i8x4, .vsub_F16 0 .n32, .vmul .rtz 0 0 .always .bf16x2,
      .vmul_F16 0 .fp32, .vmulh 0 0 .always .i16x2, .vfma .row 0 0 .always .n8x4, .vfma_F16 0 .bf16x2, .vmin 0 0 .always .dm8x4,
      .vmin_F16 0 .dm8x4, .vmax 0 0 .always .e4m3x4, .vmax_F16 0 .e4m3x4, .vand 0 0 .always .i32, .vand_F16 0 .i32, .vor 0 0 .always .i32,
      .vor_F16 0 .i32, .vxor 0 0 .always .i32, .vxor_F16 0 .i32, .vshl .rne 0 0 .always .i32, .vshl_F16 0 .i32, .vshr 0 0 .always .n16x2,
      .vshr_F16 0 .n32, .vaddi 5 0 .always .i32, .vdot .row 0 0 .always .i8x4, .vdot_F16 0 .i8x4, .vdiv .row 0 0 .always, .vsqrt .row 0 0 .always,
      .vrcp 0 0 .always, .vrsq 0 0 .always, .vexp2 0 0 .always, .vlog2 0 0 .always, .vcvt 0 .fp32 0 .always .i32, .vcvts .row 0 0 .always .i8x4,
      .vpack .row 0 0 .always .fp16x2, .vunpk 0 0 .always .fp16x2, .vrnd 4 0 .always .fp32, .vrand 0 0 .always .n32, .vbce 31 0 .always .i32,
      .vshuf 0 0 .always .i8x4, .vred 5 0 .always .i32, .vscan 2 0 .always .i32, .vins 0 0 .always .i32, .vext 0 0 .always .i32,
      .vcmpr 0 0 .always true] : List Instr).all runs = true := by decide +kernel

theorem test_memory_instructions_run :
    ([.ldv 0 0 0 .always, .stv 15 0 .always, .lds 0 0 0 .always .i32, .sts 0 0 .onTrue .n64, .ldgv 0 0 0 .always .i32, .stsv 0 0 .always .i32,
      .ldvs 0 0 0 .always .i32, .stvs 0 0 .always .i32, .aop 0 6 0 .always .fp32, .acas 0 0 .always .i32, .binit 0 false .always, .barv 0 .always,
      .bexp 0 true .always, .bph 0 0 .always, .drain 0 .always, .evsig 0 2 .always, .hget 0 false 5 5 true true .always,
      .hsnd 0 false 0 0 false false .always, .hgath 0 false 0 0 false false .always .i64, .hscat 0 false 0 0 false false .always .i8x4,
      .hsadd 0 true 0 0 false false .always .fp32, .hpfch 0 false .always, .qpush 0 0 .always, .qpop 0 0 .always, .qstop 0 0 .always,
      .tidset 0 63 .always, .mxmul 0 true .always, .mxdrn 0 false .always, .mxz 0 .always, .plpin 0 .always, .plunp 0 .always,
      .pldlt 0 .always, .plrd 0 .always, .plspl 0 0 true true true .always, .plfil 0 5 false false .always, .vdecl 0 3 .always,
      .fork 0 true .always, .fence 0 5 .always, .ctlrd 0 0 .always, .ctlwr 0 .always, .sysc 0 63 0 .always] : List Instr).all runs
    = true := by decide +kernel

/-- A step runs the placed instruction, and the decoder gives it. -/
theorem test_step_runs_placed : gives (step (State.reset.withFetchWord 32 0x78380061)) (fun t => t.firedAt 0 0 0) = true := by decide +kernel

/-! ### Results -/

/-- R223, R224, R220: ADDIS.I64 #-1 of 1 gives 0 and of 0 all ones; TLT of 0 and 3 gives 1; DIVS by 0 gives −1 and REMS A; the signed overflow
of DIVS; SHIS by −1 shifts in the sign. -/
theorem test_scalar_results :
    delivered (.addis 0x3FF 9 .always .i64) [sc 1] = some (sc 0)
    ∧ delivered (.addis 0x3FF 9 .always .i64) [sc 0] = some (sc 0xFFFFFFFFFFFFFFFF)
    ∧ delivered (.tlt 0xCD 0xCC .always .i64) [sc 0, sc 3] = some (sc 1)
    ∧ delivered (.divs .row 0 0 .always .i64) [sc 5, sc 0] = some (sc 0xFFFFFFFFFFFFFFFF)
    ∧ delivered (.rems 0 0 .always .i64) [sc 5, sc 0] = some (sc 5)
    ∧ delivered (.divs .row 0 0 .always .i64) [sc (2 ^ 63), sc 0xFFFFFFFFFFFFFFFF] = some (sc (2 ^ 63))
    ∧ delivered (.divs .rne 0 0 .always .i64) [sc (2 ^ 63), sc 0xFFFFFFFFFFFFFFFF] = some (sc (2 ^ 63 - 1))
    ∧ delivered (.shis 0x3FF 0 .always .i64) [sc (2 ^ 63)] = some (sc 0xC000000000000000)
    ∧ delivered (.mulhs 0 0 .always .i64) [sc 0xFFFFFFFFFFFFFFFF, sc 1] = some (sc 0xFFFFFFFFFFFFFFFF)
    ∧ delivered (.movih 0x80 0 ) [sc 4] = some (sc 0x40080) := by decide +kernel

/-- R233 (VADD.I8X4.SAT of 100 and 100 gives 127, VSUB.N16X2.SAT of 3 and 5 gives 0), R232 (the VFMA example), R238 (−7.9 and 3.0e9), R166. -/
theorem test_vector_results :
    lane0 (.vadd .rne 0xE0 0xE0 .always .i8x4) [vc 100, vc 100] = some 127
    ∧ lane0 (.vsub .rne 0xE0 0xE0 .always .n16x2) [vc 3, vc 5] = some 0
    ∧ lane0 (.vfma .rne 0xE0 0xE0 .always .fp32) [vc 0x3F800001, vc 0x3F7FFFFE, vc 0xBF800000] = some 0xA8800000
    ∧ lane0 (.vcvt 2 .fp32 0xE1 .always .i32) [vc 0xC0FCCCCD] = some 0xFFFFFFF9
    ∧ lane0 (.vcvt 2 .fp32 0xE1 .always .i32) [vc 0x4F32D05E] = some 0x7FFFFFFF
    ∧ lane0 (.vdot .row 0 0 .always .i8x4) [vc 0x01FF0203, vc 0x01010101, vc 10] = some 15 := by decide +kernel

/-! ### A small machine: one gang of two rows on core 0, function 0 owning every core -/

/-- Writes of little-endian numbers: key, bytes, value. -/
def poke (l : List (Nat × Nat × Nat)) (s : State) : State :=
  { s with mem := l.foldl (fun m x => Memory.write m x.1 (leBytes x.2.1 x.2.2)) s.mem }

def gang0 : Gang :=
  { id := 1, func := 0, qid := 0, index := 0, superstep := false, paired := false, pack := false, prio := 1, openLimit := 4, groups := 1,
    cores := 1, gbase := 0, rpc := 2, first := 0, firstB := 0, plates := 0, opsram := 0, scrbase := 0x40000, scrsize := 0x1000,
    vpool := 4096, qarea := 0, queues := [{ base := 0x20000, depth := 4, src := 0, dst := 0 }], entries := [0x01800000],
    dispatched := true, released := false, barrier := none, rollbacks := 0, snapshots := [], rollbackDue := false }

/-- Rows 0 and 1 belong to the gang; every core, and line 0 of cluster 0, belongs to function 0. -/
def inGang (s : State) : State :=
  poke [(rowKey 0 0 0x50, 8, 2 ^ 30), (rowKey 0 1 0x50, 8, 2 ^ 30), (Space.bar 0 0x11802, 2, 0x8000), (Space.bar 0 0x12000, 2, 0x8000)]
    { s with gangs := [gang0], rows := [(0, RowSt.fresh 1), (1, RowSt.fresh 1)] }

/-- An instruction placed in row 0 of the gang. -/
def inRow (i : Instr) (vals : List Token) : State := inGang (operands i vals)

/-- The instance of row 0 with `i` placed in it, as an open slot of a phase. -/
def slotOf0 (i : Instr) (ph : Phase) : Slot :=
  { ((placed i).slots.headD { core := 0, rid := 0, openedAt := 0, boundaries := 0, mark := none, phase := ph, inst := Inst.blank 0 [] [], next := none }) with
    phase := ph }

/-- Row 0 open in a phase, with a change of its instance. -/
def opened (ph : Phase) (g : Inst → Inst := id) : State :=
  inGang { State.reset with slots := [let x := slotOf0 (.fence 0 0 .always) ph; { x with inst := g x.inst }] }

/-! ### Witnesses: encoding and token instructions -/

theorem wit_DecodeEncode : (Instr.vadd .rne 0xE0 0xE0 .always .i32).wf = true
    ∧ encode (.vadd .rne 0xE0 0xE0 .always .i32) = some (32, 0x78380061) := by decide +kernel

theorem wit_EncodeDecode : decode (leBytes 4 0x78380061) = .ok (.vadd .rne 0xE0 0xE0 .always .i32, []) := by decide +kernel

theorem wit_EncodingCodes : 0x78383061 % 2 = 1 ∧ 0x78383061 / 4096 % 4 = 3 ∧ 0x78383061 / 2 % 128 ≠ 0x10 ∧ 0x78383061 / 2 % 128 ≠ 0x11 := by
  decide

theorem wit_StepRunsDecoded :
    let s := State.reset.withFetchWord 32 0x78380061
    s.work = [.fire 0 0] ∧ State.eligibles { s with work := [] } 0 0 = [(0, 0, .vadd .rne 0xE0 0xE0 .always .i32)] := by decide +kernel

theorem wit_PredicateOff :
    let i : Instr := .adds .row 0 0 .onTrue .i64
    ((operands i [sc 1, sc 2, sc 0]).fired? i).any (fun f => decide (kindCheck f = none) && f.sh.p != .always && !f.p.isVec
      && !scalarMatch f.sh.p f.p) = true ∧ encode i ≠ none := by decide +kernel

theorem wit_TokenFrame :
    let i : Instr := .adds .row 0 0 .always .i64
    (shape i).lsid = none ∧ (shape i).isExit = false ∧ (shape i).res ≠ .none ∧ gives (exec i (placed i)) (fun _ => true) = true := by
  decide +kernel

/-- Scalars with a poison mark, null scalars and vectors in the slots of the token instructions. -/
theorem wit_MovesAndTests :
    fires (.movih 1 0) (operands (.movih 1 0) [.sca (some (4, true))]) (fun f => f.a == .sca (some (4, true))) = true
    ∧ fires (.movih 1 0) (operands (.movih 1 0) [.sca none]) (fun f => f.a == .sca none) = true
    ∧ fires (.mov 0 0 .always .i32) (operands (.mov 0 0 .always .i32) [vc 7]) (fun f => f.a == vc 7) = true
    ∧ fires (.mov_F16 0 .i32) (operands (.mov_F16 0 .i32) [vc 7]) (fun f => f.a == vc 7) = true
    ∧ fires (.mov_F16 0 .i32) (operands (.mov_F16 0 .i32) [sc 7]) (fun f => f.a == sc 7) = true
    ∧ ([.teq 0 0 .always .i64, .tne 0 0 .always .n64, .tlt 0 0 .onTrue .i64, .tle 0 0 .always .i64] : List Instr).all (fun i =>
        fires i (operands i [sc 3, sc 5, sc 1]) fun f => f.a == sc 3 && f.b == sc 5) = true
    ∧ ([.teq 0 0 .always .i64, .tne 0 0 .always .n64, .tlt 0 0 .always .i64, .tle 0 0 .always .i64] : List Instr).all (fun i =>
        fires i (operands i [.sca none, sc 5]) (fun f => f.a == .sca none) && delivered i [.sca none, sc 5] == some (.sca none)) = true := by
  decide +kernel

/-- Finite FP32 operands whose results are finite: 1.0 and −0.5, the smallest subnormal and the largest finite value (R155, R156). -/
theorem wit_NearestFp32 :
    ([0x3F800000, 0xBF000000, 1, 0x7F7FFFFF].all fp32Finite) = true ∧ fp32Units 1 = 1 ∧ fp32Units 0xBF000000 = -2 ^ 148
    ∧ ([.vadd .rne 0 0 .always .fp32, .vsub .rne 0 0 .always .fp32, .vmul .rne 0 0 .always .fp32, .vfma .rne 0 0 .always .fp32,
        .vdiv .rne 0 0 .always] : List Instr).all (fun i => fires i (operands i [vc 0x3F800000, vc 0xBF000000, vc 1])
          && (lane0 i [vc 0x3F800000, vc 0xBF000000, vc 1]).any fp32Finite) = true
    ∧ fires (.vadd .rne 0 0 .always .fp32) (operands (.vadd .rne 0 0 .always .fp32) [sc 1, sc 0x7F7FFFFF]) = true
    ∧ fp32Units 0xBF000000 ≠ 0 := by decide +kernel

theorem wit_ScalarArithmetic :
    ([.adds .row 0 0 .always .i64, .subs .row 0 0 .always .n64, .muls .row 0 0 .always .i64, .adds .rne 0 0 .always .i64, .subs .rne 0 0 .always .i64,
      .muls .rne 0 0 .always .n64, .divs .row 0 0 .always .i64, .divs .row 0 0 .always .n64, .divs .rne 0 0 .always .i64,
      .divs .rne 0 0 .always .n64, .rems 0 0 .always .i64, .rems 0 0 .always .n64, .mulhs 0 0 .always .i64, .mulhs 0 0 .always .n64]
      : List Instr).all (fun i => fires i (operands i [sc 5, sc 0]) fun f => f.a == sc 5 && f.b == sc 0) = true := by decide +kernel

theorem wit_ScalarBits :
    ([.ands 0 0 .always .i64, .ors 0 0 .always .n64, .xors 0 0 .always .i64, .shls .row 0 0 .always .i64, .shls .rne 0 0 .always .i64,
      .shrs 0 0 .always .n64, .addis 1 0 .always .i64, .andis 1 0 .always .i64, .shis 63 0 .always .i64, .shis 0x3C1 0 .always .i64,
      .clzs 0 0 .always, .ctzs 0 0 .always, .popcs 0 0 .always, .mins 0 0 .always false, .mins 0 0 .always true, .maxs 0 0 .always false,
      .maxs 0 0 .always true] : List Instr).all (fun i => fires i (operands i [sc (2 ^ 63), sc 63]) fun f => f.a == sc (2 ^ 63)) = true := by
  decide +kernel

theorem wit_IntegerLanes :
    ([.vadd .row 0 0 .always .i8x4, .vsub .rne 0 0 .always .n16x2, .vmul .rne 0 0 .always .i32, .vfma .row 0 0 .always .n32,
      .vmulh 0 0 .always .i16x2] : List Instr).all (fun i => fires i (operands i [vc 0x80808080, vc 0xFFFFFFFF, vc 1])) = true
    ∧ lane0 (.vmulh 0 0 .always .i16x2) [vc 0x80008000, vc 0x80007FFF] = some 0x4000C000 := by decide +kernel

theorem wit_ElementMoves :
    let o (a b : Token) : Opnds := { opnds (placed (.vshuf 0 0 .always .i8x4)) ⟨0, 0, 0, slotOf0 (.fence 0 0 .always) .running, shape (.vshuf 0 0 .always .i8x4),
      a, b, .nullSca, .nullSca⟩ with a := a, b := b }
    laneAt (shuffle .i8x4 (o (vc 0x03020100) (vc 0x00010203))).out.lanes 0 = some (0x00010203, false)
    ∧ laneAt (shuffle .i8x4 (o (vc 1) (.vec (List.replicate 32 none)))).out.lanes 31 = none
    ∧ laneAt (broadcast .i8x4 127 (o (vc 0x03020100) (vc 0))).out.lanes 31 = some (0x03030303, false) := by decide +kernel

/-! ### Witnesses: exits -/

theorem wit_Exits :
    ([.br 0 .always, .call 0 .always, .loop 0 .always, .endl .always, .brkl 0 .always, .yield 0 .always, .halt 0 .always, .trap 1 .always,
      .efence 0 .always] : List Instr).all (fun i => fires i (inRow i [sc 3]) fun f => f.slot.inst.exit.isNone
        && validBlock (exitTarget f.slot.inst.pc 0) && !f.slot.inst.writesS7) = true
    ∧ fires (.brx .always) (inRow (.brx .always) [sc 0x01800010]) (fun f => validBlock f.a.num && f.a.high == 0) = true
    ∧ fires (.waitb 0 .always) (inRow (.waitb 0 .always) [sc 0x1FFFE0, sc 1]) (fun f => f.a.num == 0x1FFFE0) = true
    ∧ fires (.waite 0 .always) (inRow (.waite 0 .always) [sc 63]) (fun f => f.a.num == 63) = true
    ∧ (let s := inRow (.waitqr 0 .always) [sc 0x20000]
       fires (.waitqr 0 .always) s (fun f => s.isGangQueue f.core f.a.num) = true)
    ∧ (let s := inRow (.waitqd 0 .always) [sc 0x20000]
       fires (.waitqd 0 .always) s (fun f => s.isGangQueue f.core f.a.num) = true)
    ∧ (let s := poke [(rowKey 0 0 0x70, 8, 2 ^ 47)] (inRow (.splice .always) [])
       fires (.splice .always) s (fun f => s.link f.core f.rid != 0) = true)
    ∧ ([0, 256].all fun n => fires (.forkr 0 .always) (inRow (.forkr 0 .always) [sc n, sc 1, sc 0x01800000]) fun f =>
        f.a.num == n && f.b.num != 0 && f.c.high == 0 && validBlock f.c.num && f.slot.inst.failed.isNone) = true := by decide +kernel

theorem wit_ExitsNotTaken :
    fires (.br 0x3FFFF .always) (inRow (.br 0x3FFFF .always) []) (fun f => !validBlock (exitTarget f.slot.inst.pc 0x3FFFF)) = true
    ∧ fires (.brx .always) (inRow (.brx .always) [sc 8]) (fun f => !validBlock f.a.num && f.slot.inst.failed.isNone) = true
    ∧ fires (.brx .always) (inRow (.brx .always) [.sca none]) (fun f => f.a == .sca none) = true
    ∧ fires (.splice .always) (inRow (.splice .always) []) (fun f => (inRow (.splice .always) []).link f.core f.rid == 0) = true
    ∧ (let s := inRow (.br 0 .always) []
       let e : Exit := { kind := .halt, index := 0, target := 0, a := 0, b := 0, c := 0, due := 0, tasks := [], cell := 0 }
       let t := { s with slots := s.slots.map fun x => { x with inst := { x.inst with exit := some e } } }
       fires (.br 0 .always) t (fun f => f.slot.inst.exit.isSome) = true
       ∧ gives (exec (.br 0 .always) t) (fun u => (u.slot? 0 0).any fun x => (x.inst.failed.map (·.code)) == some 0x0107) = true) := by
  decide +kernel

/-! ### Witnesses: memory instructions -/

theorem wit_NullAndPoisonedAddress :
    fires (.lds 0 0 0 .always .i32) (inRow (.lds 0 0 0 .always .i32) [.sca none]) (fun f => f.a == .sca none && !f.b.poisoned) = true
    ∧ fires (.lds 0 0 0 .always .i32) (inRow (.lds 0 0 0 .always .i32) [.sca (some (64, true))]) (fun f => f.a.poisoned) = true
    ∧ fires (.sts 0 0 .always .i32) (inRow (.sts 0 0 .always .i32) [.sca none, sc 1]) (fun f => f.a == .sca none) = true
    ∧ (let i : Instr := .lds 1 0 0 .always .i32
       let s := inRow i [.sca none]
       let t := { s with slots := s.slots.map fun x => { x with inst := { x.inst with ins := x.inst.ins ++ [((encode (.fence 0 0 .always)).getD (0, 0)).2] } } }
       fires i s (fun f => f.slot.inst.lowerFired f.lsid) = true ∧ fires i t (fun f => !f.slot.inst.lowerFired f.lsid) = true
       ∧ gives (exec i t) (fun u => (u.slot? 0 0).any fun x => x.inst.waits.length == 1) = true) := by decide +kernel

theorem wit_Loads :
    (([.ldv 0 0 0 .always, .lds 0 0 0 .always .i32, .ldgv 0 0 0 .always .i32] : List Instr).all fun i =>
      fires i (inRow i [sc 0x30000, vc 4]) fun f => decide (addressCheck (inRow i [sc 0x30000, vc 4]) f i false false f.mask = none)
        && f.slot.inst.lowerFired f.lsid) = true
    ∧ fires (.ldvs 0 0 0 .always .i32) (inRow (.ldvs 0 0 0 .always .i32) [sc 0x30000, sc 4]) (fun f =>
        decide (addressCheck (inRow (.ldvs 0 0 0 .always .i32) [sc 0x30000, sc 4]) f (.ldvs 0 0 0 .always .i32) false true f.mask = none)) = true
    ∧ (let s := poke [(Space.loc 0 0x1FFFFC, 4, 0xFFFFFFFE)] (inRow (.lds 0 0x3F 0 .always .i32) [sc 0x200000])
       gives (exec (.lds 0 0x3F 0 .always .i32) s) (fun t => (t.slot? 0 0).any fun x => (x.inst.toks.getLast?).map (·.val)
        == some (sc 0xFFFFFFFFFFFFFFFE)) = true
       ∧ s.inPool 0 0x1FFFFC 4 = false ∧ s.guard = [] ∧ s.poison = [] ∧ bit (s.bar 0 0x10068 8) 63 = false
       ∧ ((List.range 4).all fun k => !s.blockState 0 (0x1FFFFC + k)) = true) := by decide +kernel

theorem wit_Stores :
    (([.stv 0 0 .always, .stsv 0 0 .always .i32, .stvs 0 0 .always .i32] : List Instr).all fun i =>
      let s := inRow i [sc 0x30000, if i = .stvs 0 0 .always .i32 then sc 4 else vc 4, vc 5]
      fires i s fun f => decide (addressCheck s f i true (i = .stvs 0 0 .always .i32) f.mask = none)) = true
    ∧ (let i : Instr := .sts 0 0x3FFF .always .i16x2
       fires i (inRow i [sc 0x30002, sc 0x1234]) (fun f => f.a == sc 0x30002 && f.b == sc 0x1234) = true
       ∧ (inRow i [sc 0x30002, sc 0x1234]).inPool 0 0x30000 2 = false
       ∧ gives (exec i (inRow i [sc 0x30002, sc 0x1234])) (fun t => (t.slot? 0 0).any fun x => x.inst.effects.any fun e =>
          e.2.2 == .store [{ addr := 0x30000, byte := 0x34, poison := false }, { addr := 0x30001, byte := 0x12, poison := false }]) = true) := by decide +kernel

theorem wit_AddressChecks :
    let s := inRow (.fence 0 0 .always) []
    s.accessCheck 0 0 true { lane := 0, ea := 2, w := 4 } = some 0x0302 ∧ s.accessCheck 0 0 true { lane := 0, ea := 0x200000, w := 4 } = some 0x0301
    ∧ s.accessCheck 0 0 true { lane := 0, ea := 0x1FFFFC - 0x2000, w := 4 } = none
    ∧ s.accessCheck 0 0 true { lane := 0, ea := 0x01200000, w := 4 } = some 0x0304
    ∧ s.accessCheck 0 0 false { lane := 0, ea := 0x01400000, w := 8 } = some 0x0301
    ∧ s.accessCheck 0 0 true { lane := 0, ea := 0x01800000, w := 4 } = none
    ∧ (let u := poke [(ownKey 0 0, 8, 2 ^ 63)] s
       u.mayUseTile 0 0 0 = true ∧ u.mayUseTile 0 0 1 = false ∧ u.accessCheck 0 0 false { lane := 0, ea := 0x0120FFC0, w := 128 } = some 0x0304)
    := by decide +kernel

/-- An AOP and an ACAS in local SRAM and in the remote window, without another LSID below, and what an add leaves. -/
theorem wit_Atomics :
    (([.aop 0 0 0 .always .i64, .acas 0 0 .always .i64] : List Instr).all fun i => [0x30000, 0x80000000].all fun a =>
      fires i (inRow i [sc a, sc 1, sc 2]) fun f => (rangeOf f.a.num).isSome && f.slot.inst.lowerFired f.lsid
        && ((inRow i [sc a, sc 1, sc 2]).atomicChecks f.core f.rid f.a.num 8).all (·.1)) = true
    ∧ gives (exec (.aop 0 0 0 .always .i64) (inRow (.aop 0 0 0 .always .i64) [sc 0x30000, sc 5])) (fun t => t.loc 0 0x30000 8 == 5
        && (t.slot? 0 0).any (·.inst.atomicDone)) = true
    ∧ (inRow (.fence 0 0 .always) []).row? 0 (ridOf 0x30000) = none := by decide +kernel

/-- A queue of depth 4 at 0x20000 with its ring at 0x21000: empty, with one entry, full and stopped. -/
def queue0 (head tail stop : Nat) (s : State) : State :=
  poke [(Space.loc 0 0x20000, 4, 0x21000), (Space.loc 0 0x20004, 2, 4), (Space.loc 0 0x20008, 4, head), (Space.loc 0 0x2000C, 4, tail),
    (Space.loc 0 0x20010, 4, stop)] s

theorem wit_StageQueues :
    (([.qpush 0 0 .always, .qpop 0 0 .always, .qstop 0 0 .always] : List Instr).all fun i =>
      fires i (inRow i [sc 0x20000, vc 7]) fun f => (inRow i [sc 0x20000, vc 7]).isGangQueue f.core f.a.num && f.slot.inst.lowerFired f.lsid) = true
    ∧ (let s := queue0 0 0 0xFFFFFFFF (inRow (.qpush 0 0 .always) [sc 0x20000, vc 7])
       s.qCount 0 0x20000 = 0 ∧ s.qDepth 0 0x20000 = 4 ∧ gives (exec (.qpush 0 0 .always) s) (fun t => t.qTail 0 0x20000 == 1
        && t.loc 0 0x21000 4 == 7) = true
       ∧ ((s.queueBytes 0 0x20000 0).all fun a => decide (a < 0x200000) && (s.armedAt 0 a).isNone && (s.row? 0 (ridOf a)).isNone) = true
       ∧ s.qSlot 0 0x20000 (s.qTail 0 0x20000) = 0x21000 ∧ ((List.range 128).all fun k => !s.inQueue 0 (0x21000 + k)) = true
       ∧ bit (s.bar 0 0x10068 8) 63 = false)
    ∧ (let s := poke [(Space.loc 0 0x21004, 4, 9)] (queue0 0 0 0xFFFFFFFF (inRow (.qpush 0 0 .always) [sc 0x20000, .vec (some (7, false) :: none :: List.replicate 30 (some (5, false)))]))
       gives (exec (.qpush 0 0 .always) s) (fun t => t.loc 0 0x21000 4 == 7 && t.loc 0 0x21004 4 == 9 && t.loc 0 0x2107C 4 == 5) = true)
    ∧ (let s := queue0 0 1 0xFFFFFFFF (inRow (.qpop 0 0 .always) [sc 0x20000])
       s.qCount 0 0x20000 ≠ 0 ∧ gives (exec (.qpop 0 0 .always) s) (fun t => t.qHead 0 0x20000 == 1) = true)
    ∧ (let s := queue0 0 4 0xFFFFFFFF (inRow (.qpush 0 0 .always) [sc 0x20000, vc 7])
       s.qDepth 0 0x20000 ≤ s.qCount 0 0x20000 ∧ gives (exec (.qpush 0 0 .always) s) (fun t => t.qTail 0 0x20000 == 4) = true)
    ∧ (let s := queue0 0 1 0xFFFFFFFF (inRow (.qpop 0 0 .always) [sc 0x20000])
       let t : State := { s with slots := s.slots.map fun x => { x with inst := { x.inst with
         waits := [(9, .queue 1 0x20000 .nullSca none (some 3))] } } }
       t.queueBehind 0 0x20000 1 5 = true ∧ t.queueBehind 0 0x20000 1 3 = false ∧ t.queueBehind 0 0x20000 0 5 = false)
    ∧ (let s := queue0 0 1 0 (inRow (.qpush 0 0 .always) [sc 0x20000, vc 7])
       s.qStop 0 0x20000 ≠ 0xFFFFFFFF ∧ gives (exec (.qpush 0 0 .always) s) (fun t => (t.row? 0 0).any fun r => !r.held.isEmpty) = true)
    ∧ (let s := queue0 0 0 0xFFFFFFFF (inRow (.qstop 0 0 .always) [sc 0x20000])
       gives (exec (.qstop 0 0 .always) s) (fun t => t.qStop 0 0x20000 == 0 && t.qTail 0 0x20000 == 1) = true) := by decide +kernel

theorem wit_Barriers :
    fires (.binit 0 false .always) (inRow (.binit 0 false .always) [sc 0x30000, sc 3, sc 0]) = true
    ∧ (([.barv 0 .always, .bexp 0 true .always, .drain 0 .always] : List Instr).all fun i => fires i (inRow i [sc 0x30000, sc 64]) fun f =>
        objectAddress f.a.num && (objectAt f.core f.a.num).1 == f.core) = true
    ∧ fires (.barv 0 .always) (inRow (.barv 0 .always) [sc 0x80030000]) (fun f => objectAddress f.a.num) = true
    ∧ fires (.evsig 0 0 .always) (inRow (.evsig 0 0 .always) [sc 0x1000]) (fun f => bit f.a.num 12) = true
    ∧ fires (.bph 0 0 .always) (inRow (.bph 0 0 .always) [sc 0x30000]) (fun f => f.slot.inst.lowerFired f.lsid) = true
    ∧ (let s := poke [(Space.loc 0 0x30000, 1, 8), (Space.loc 0 0x30004, 4, 3), (Space.loc 0 0x30008, 4, 2)] State.reset
       bit (s.loc 0 0x30000 1) 3 = true ∧ 2 < s.loc 0 0x30004 4
       ∧ ((arriveAt (Origin.device 0) 0 0x30000 1 0 0 fun _ => .done).run s).loc 0 0x30000 1 = 9
       ∧ ((arriveAt (Origin.device 0) 0 0x30000 0 5 0 fun _ => .done).run s).loc 0 0x30018 8 = 5) := by decide +kernel

/-- The objects of the witnesses lie in no read-only field; one at 0x100 of an allocated row lies in its registers. -/
theorem wit_PlainObjects :
    State.reset.plainObject 0 0x30000 ∧ (inGang State.reset).plainObject 0 0x30000 ∧ (inGang State.reset).plainObject 0 0x100
    ∧ ({ inGang State.reset with gangs := [{ gang0 with cores := 2 }], rows := [(0, RowSt.fresh 1), (512, RowSt.fresh 1)] }).plainObject 1 0x40000 := by
  unfold State.plainObject
  decide +kernel

/-- R281: an object of a gang of two cores whose one arrival is in flips, and the flip is broadcast to the other core. -/
theorem wit_BarrierFlips :
    let s := poke [(Space.loc 0 0x30000, 1, 8), (Space.loc 0 0x30004, 4, 1), (Space.loc 0 0x30008, 4, 1)] { inGang State.reset with gangs := [{ gang0 with cores := 2 }] }
    bit (s.loc 0 0x30000 1) 3 = true ∧ bit (s.loc 0 0x30000 1) 5 = false ∧ bit (s.loc 0 0x30000 1) 4 = false ∧ (s.coreSt 0).cdone = []
    ∧ s.loc 0 0x30008 4 < 2 * s.loc 0 0x30004 4
    ∧ (let t := (barrierStep 3 false (Origin.device 0) 0 0x30000).run s
       t.loc 0 0x30000 1 = 9 ∧ t.mesh.map (fun m => (m.dst, m.pay)) = [(1, .flip 0 0x30000)]) := by decide +kernel

theorem wit_LineSignals :
    let s := poke [(lineKey 0 0, 4, 3 * 2 ^ 30)] (inRow (.fence 0 0 .always) [])
    let org : Origin := { Origin.device 0 with rid := 0 }
    s.poisoned (lineKey 0 0) = false ∧ s.lineOwned 0 0 0 0 true = true ∧ s.lineOwned 0 1 0 0 true = false
    ∧ bit (((signalLine org 0 0 0 fun _ => .done).run s).le (lineKey 0 0) 4) 28 = true
    ∧ ((signalLine org 0 0 0 fun _ => .done).run s).le (lineKey 0 0 + 0x10) 4 = 1
    ∧ (let t := poke [(lineKey 0 0, 4, 2 * 2 ^ 30 + 2 ^ 27)] s
       bit (((signalLine org 0 0 0 fun _ => .done).run t).le (lineKey 0 0) 4) 27 = false)
    ∧ (let t := poke [(lineKey 0 0, 4, 2 * 2 ^ 30 + 2 ^ 27), (lineKey 0 0 + 8, 4, 5)] s
       t.le (lineKey 0 0 + 8) 4 % 512 ≠ org.rid ∧ ((List.range 6).all fun i => !t.poisoned (lineKey 0 0 + 4 * i)) = true
       ∧ bit (((signalLine org 0 0 0 fun _ => .done).run t).le (lineKey 0 0) 4) 27 = true) := by decide +kernel

/-! ### Witnesses: commands and the system -/

/-- The checks of R293 pass, and entry 0 is free, for each kind of command; they pass with every entry taken; and their three refusals. -/
theorem wit_HalyardInstructions :
    let passes (i : Instr) (v : List Token) (h : HForm) : Bool := fires i (inRow i v) (fun f => f.slot.inst.failed.isNone)
      && ((inRow i v).halyardChecks 0 0 h).all (·.1) && (inRow i v).freeEntry 0 == some 0
    passes (.hget 0 false 0 0 false false .always) [sc 0x30000, sc 0x10000, sc 64] ⟨.hget, 0x30000, 0, 0x10000, 64, 0, 4⟩ = true
    ∧ passes (.hsnd 0 false 0 0 false false .always) [sc 0x30000, sc (2 ^ 63 + 0x38000), sc 64] ⟨.hsnd, 0x30000, 0, 2 ^ 63 + 0x38000, 64, 0, 4⟩ = true
    ∧ passes (.hgath 0 false 0 0 false false .always .i32) [sc (0x30000 + 0x31000 * 2 ^ 32), sc 0x10000, sc 1] ⟨.hgath, 0x30000, 0x31000, 0x10000, 1, 0, 4⟩ = true
    ∧ passes (.hscat 0 false 0 0 false false .always .i32) [sc 0x30000, sc 0x10000, sc (1 + 0x31000 * 2 ^ 32)] ⟨.hscat, 0x30000, 0, 0x10000, 1, 0x31000, 4⟩ = true
    ∧ passes (.hsadd 0 true 0 0 false false .always .fp32) [sc 0x30000, sc (2 ^ 63 + 0x38000), sc 4] ⟨.hsadd, 0x30000, 0, 2 ^ 63 + 0x38000, 4, 0, 4⟩ = true
    ∧ passes (.hpfch 0 false .always) [sc 0, sc 0x10000, sc 64] ⟨.hpfch, 0, 0, 0x10000, 64, 0, 4⟩ = true
    ∧ (let i : Instr := .hget 0 false 0 0 false false .always
       let s := inRow i [sc 0x30000, sc 0x10000, sc 64]
       let full := { s with cores := Tab.set s.cores 0 { s.coreSt 0 with halyard := (List.range 64).map fun e => (e, HEntry.blank (Origin.device 0)) } }
       full.freeEntry 0 = none ∧ fires i full = true)
    ∧ (let i : Instr := .hget 0 false 0 0 false false .always
       fires i (inRow i [sc 0x0183FFC1, sc 0x10000, sc 64]) = true
       ∧ (fires i (inRow i [sc 0x30000, sc 0x10000, sc 0]) fun f => f.a.high == 0 && f.c.num == 0) = true
       ∧ (inRow i []).extentOk 0 0x30000 0 true = true)
    ∧ (let i : Instr := .hsnd 0 false 0 0 false false .always
       let s := inRow i [sc 0x30000, sc (2 ^ 63 + 2 ^ 48 + 0x38000), sc 64]
       let s' : State := { s with mem := Memory.write s.mem (Space.bar 0 0x11802) (leBytes 2 0x8001) }
       fires i s' = true ∧ s'.extentOk 0 0x38000 64 false = true ∧ s'.ownsCore (s'.tenant 0 0) 1 = false) := by decide +kernel

/-- Each command fires; a plate of core 0 may be spilled to memory; and a tensor identifier image of one dimension is held. -/
theorem wit_MatrixInstructions :
    (([.mxmul 0 true .always, .mxdrn 0 false .always, .mxz 0 .always, .plpin 0 .always, .plunp 0 .always, .pldlt 0 .always, .plrd 0 .always,
      .plspl 0 5 true false true .always, .plfil 0 5 true false .always, .plspl 0 0 false true false .always, .plfil 0 0 true true .always]
      : List Instr).all fun i => fires i (inRow i [sc 1, sc 2, sc 3]) fun f => f.a.num / 2 ^ 56 == f.core
        && (inRow i [sc 1, sc 2, sc 3]).freeEntry f.core == some 0) = true
    ∧ ([0, 0x1FFFE0].all fun a => fires (.tidset 0 63 .always) (inRow (.tidset 0 63 .always) [sc a]) fun f => f.a.num == a) = true
    ∧ (let s := poke [(Space.loc 0 0x1FFFE8, 4, 1)] (opened .running)
       let t := (tidsetNow 0 0 0 (shape (.tidset 0 63 .always)) 63 0x1FFFE0 (some 0)).run s
       s.guard = [] ∧ s.poison = [] ∧ (s.row? 0 0).all (fun r => r.redir.isEmpty) = true ∧ tidWellFormed (s.bytes (Space.loc 0 0x1FFFE0) 32) = true
       ∧ ((List.range 32).all fun k => !s.blockState 0 (0x1FFFE0 + k)) = true
       ∧ (t.slot? 0 0).map (fun x => x.inst.effects) = some [(0, 0, .tidset 63 (s.bytes (Space.loc 0 0x1FFFE0) 32))])
    ∧ (let s := opened .running
       let t := (tidsetNow 0 0 0 (shape (.tidset 0 63 .always)) 63 0 (some 0)).run s
       (t.slot? 0 0).map (fun x => (x.inst.effects, x.inst.failed.map (·.code))) = some ([], some 0x0502)) := by decide +kernel

theorem wit_SystemInstructions :
    fires (.vdecl 0 3 .always) (inRow (.vdecl 0 3 .always) [sc 0x1FFFE0]) (fun f => f.slot.inst.lowerFired f.lsid) = true
    ∧ (let s := inRow (.vdecl 1 3 .always) [sc 0]
       let t := { s with slots := s.slots.map fun x => { x with inst := { x.inst with ins := x.inst.ins ++ [((encode (.fence 0 0 .always)).getD (0, 0)).2] } } }
       fires (.vdecl 1 3 .always) t (fun f => !f.slot.inst.lowerFired f.lsid) = true)
    ∧ (let i : Instr := .fork 0 true .always
       let s := inRow i [sc 0x01800000, sc 1, sc 2]
       fires i s (fun f => f.a.high == 0 && validBlock f.a.num) = true ∧ (s.poolPlace 0 16 16).isSome = true)
    ∧ fires (.fence 0 5 .always) (inRow (.fence 0 5 .always) []) = true
    ∧ (let i : Instr := .sysc 0 63 0 .always
       let s := poke [(Space.bar 0 0x40, 2, 1)] (inRow i [sc 1, sc 2, sc 0x1FFFF8])
       fires i s (fun f => f.c.num == 0x1FFFF8) = true ∧ s.freeRecord (s.tenant 0 0) = some 0) := by decide +kernel

theorem wit_ControlRegisters :
    fires (.ctlrd 0 0 .always) (inRow (.ctlrd 0 0 .always) [sc (2047 * 2 ^ 16 + 0x31)]) (fun _ => ctlExists 0x31 2047) = true
    ∧ fires (.ctlwr 0 .always) (inRow (.ctlwr 0 .always) [sc 0x28, sc 7]) (fun _ => ctlExists 0x28 0 && !ctlSupervised 0x28) = true
    ∧ fires (.ctlrd 0 0 .always) (inRow (.ctlrd 0 0 .always) [sc (2048 * 2 ^ 16 + 0x31)]) (fun _ => !ctlExists 0x31 2048) = true
    ∧ (let i : Instr := .ctlrd 0 0 .always
       let s := poke [(rowKey 0 0 0x50, 8, 2 ^ 46 + 2 ^ 30), (Space.bar 0 0x11802, 2, 0x8001)] (inRow i [sc 0x20])
       fires i s (fun f => f.slot.inst.failed.isNone) = true ∧ s.supervisor 0 0 = false ∧ ctlSupervised 0x20 = true
       ∧ gives (exec i s) (fun t => (t.slot? 0 0).any fun x => (x.inst.failed.map (·.code)) == some 0x0607) = true)
    ∧ (let s := opened .running
       ((ctlWrite 0 1 7 0x12345678).run s).ctlValue 0 0 1 7 = 0x12345678
       ∧ ((ctlWrite 0 0x28 0 0x1FF).run s).ctlValue 0 0 0x28 0 = 0xFF
       ∧ (s.clusterSt 0).recentAt = s.cycle ∧ (({ s with cycle := 1 }).clusterSt 0).recentAt ≠ 1) := by decide +kernel

/-! ### Witnesses: blocks and rows -/

def exitOf (k : ExitKind) (target a b : Nat) : Exit :=
  { kind := k, index := 0, target := target, a := a, b := b, c := 0, due := 0, tasks := [], cell := 0 }

theorem wit_NothingBeforeCommit :
    ([.sts 0 0 .always .i32, .barv 0 .always, .hsnd 0 false 0 0 false false .always, .mxz 0 .always, .ctlwr 0 .always, .halt 0 .always]
      : List Instr).all (fun i => (encode i).isSome && gives (exec i (placed i)) (fun _ => true)) = true := by decide +kernel

/-- An instance whose write entry 0 writes a register m, with a value at it. -/
def wrote (m : Nat) (v : Token) : Inst :=
  let h := [0, 0, 0, 0x3F3F3F3F3F3F3F00 + m]
  let x := Inst.blank 0x01800000 h []
  { x with toks := [{ dest := entryT 0, val := v, due := 0, from? := 1 }], flags := { nv := true } }

theorem wit_CommitWrites :
    let s := opened .running
    ([0, 23, 24, 31].all fun m => writeEntry (wrote m (sc 5)).header 0 == m
      && passReg m (wrote m (sc 5)).pass (headerStride (wrote m (sc 5)).header) == m
      && ((List.range 8).all fun k => k == 0 || writeEntry (wrote m (sc 5)).header k == 63)) = true
    ∧ (wrote 31 (sc 5)).value (entryT 0) 0 = sc 5
    ∧ ((commitInst 0 511 (wrote 31 (sc 5))).run s).rowLe 0 511 0xB8 8 = 5
    ∧ ((commitInst 0 511 (wrote 24 (.sca none))).run s).rowLe 0 511 0x80 8 = 0
    ∧ ((commitInst 0 511 (wrote 23 (.vec (none :: List.replicate 31 (some (7, false)))))).run s).rowLe 0 511 (0x100 + 128 * 23) 8 = 7 * 2 ^ 32
    ∧ (Flags.ofBits (((commitInst 0 511 (wrote 0 (vc 7))).run s).rowLe 0 511 0x10 8)).nv = true
    ∧ (s.row? 0 0).isSome = true ∧ ((commitInst 0 0 (wrote 23 (sc (5 + 2 ^ 32)))).run s).rowLe 0 0 (0x100 + 128 * 23 + 124) 4 = 5 := by decide +kernel

/-- Row 511 with a loop entry, and its exits. -/
def looped (depth count : Nat) : State :=
  poke [(rowKey 0 511 0x48, 1, depth), (rowKey 0 511 (loopOff (depth - 1)), 4, 0x01800000), (rowKey 0 511 (loopOff (depth - 1) + 4), 4, 0x01800040),
    (rowKey 0 511 (loopOff (depth - 1) + 8), 4, count)] (opened .running)

theorem wit_BoundaryExits :
    let x := Inst.blank 0x01800000 [0, 0, 0, 0] []
    let after (k : ExitKind) (d c a : Nat) : State := (exitEffect 0 511 x (exitOf k 0x01800100 a 1)).run (looped d c)
    (after .br 0 0 0).pc 0 511 = 0x01800100 ∧ (after .call 0 0 0).rowLe 0 511 0xB8 8 = fallThrough 0x01800000 [0, 0, 0, 0]
    ∧ (after .yield 0 0 0).code 0 511 = 1 ∧ (after .halt 0 0 0).code 0 511 = 4
    ∧ (after .loop 0 0 0).rowLe 0 511 0x48 1 = 0 ∧ (after .loop 3 1 5).rowLe 0 511 0x48 1 = 4 ∧ (after .loop 3 1 5).rowLe 0 511 (loopOff 3 + 8) 4 = 5
    ∧ (after .endl 4 1 0).rowLe 0 511 0x48 1 = 3 ∧ (after .endl 4 1 0).pc 0 511 = 0x01800040
    ∧ (after .endl 1 2 0).rowLe 0 511 0x48 1 = 1 ∧ (after .endl 1 2 0).pc 0 511 = 0x01800000
    ∧ (after .brkl 4 7 0).pc 0 511 = 0x01800100 ∧ (after .brkl 4 7 0).rowLe 0 511 0x48 1 = 3
    ∧ (after .forkr 0 0 0).pc 0 511 = 0x01800100
    ∧ (let t := (exitEffect 0 0 x { exitOf .forkr 0x01800100 7 4 with c := 0x01800200, cell := 0x1FFFF0, tasks := [(0, 1), (1, 3)] }).run (opened .running)
       ((opened .running).row? 0 0).isSome = true ∧ (opened .running).row? 0 (ridOf 0x1FFFF0) = none
       ∧ t.code 0 0 = 3 ∧ t.waitk 0 0 = 5 ∧ t.waitobj 0 0 = 0x1FFFF0 ∧ t.pc 0 0 = 0x01800100 ∧ t.loc 0 0x1FFFF0 2 = 2
       ∧ t.mesh.map (fun m => (m.dst, m.pay)) = [(0, .start 1 0 3 0 2 0 0x1FFFF0 0x01800200), (1, .start 3 3 4 1 2 0 0x1FFFF0 0x01800200)])
    ∧ (let t := (exitEffect 0 0 x (exitOf .splice 0 0 0)).run (poke [(rowKey 0 0 0x70, 8, 9 * 2 ^ 56 + 2 * 2 ^ 47 + 2 ^ 39 + 0x30000)] (opened .running))
       t.code 0 0 = 0 ∧ t.pc 0 0 = 0x01800000 ∧ t.link 0 0 = 0 ∧ t.mesh.map (·.pay) = [.merge 9 0x30000 1 1])
    ∧ (let y : Inst := { x with exit := some (exitOf (.trap 0x7FFF) 0 0 0) }
       let s := opened (.boundary 0) fun _ => y
       y.drains = false ∧ y.drained = false ∧ ((boundary 0 0 y).run s).rowLe 0 0 0x68 2 = 0xFFFF ∧ ((boundary 0 0 y).run s).code 0 0 = 5)
    ∧ (let w (o : Option (Nat × Nat × Nat)) : State := (exitEffect 0 511 x { exitOf .waitb 0x01800100 0x30000 1 with wait := o }).run (looped 0 0)
       (w none).code 0 511 = 0 ∧ (w none).pc 0 511 = 0x01800100 ∧ (w (some (1, 0x1FFFE0, 1))).waitk 0 511 = 1
       ∧ (w (some (1, 0x1FFFE0, 1))).waitobj 0 511 = 0x1FFFE0 ∧ (w (some (1, 0x1FFFE0, 1))).code 0 511 = 3) := by decide +kernel

/-- The condition of a wait exit is judged at the end of the commit's last cycle: of a barrier in phase 0, and of a queue of depth 4. -/
theorem wit_WaitsJudged :
    (let s (k : ExitKind) (head b : Nat) : State := { queue0 head 4 0xFFFFFFFF (opened (.boundary 1) fun x => { x with exit := some (exitOf k 0x01800100 0x20000 b) })
       with work := [.judge 0 0] }
     let wait (k : ExitKind) (head b : Nat) : Option (Option (Nat × Nat × Nat)) :=
       match step (s k head b) with | .next t => (t.slot? 0 0).bind fun l => l.inst.exit.map (·.wait) | _ => none
     wait .waitb 0 0 = some none ∧ wait .waitb 0 1 = some (some (1, 0x20000, 1))
     ∧ wait .waitqr 0 0 = some (some (3, 0x20000, 0)) ∧ wait .waitqr 1 0 = some none
     ∧ wait .waitqd 4 0 = some (some (4, 0x20000, 0)) ∧ wait .waitqd 0 0 = some none) := by decide +kernel

theorem wit_TakesTrap :
    let p : Precise := { tvalid := true, tidx := 31, tpass := 15, twe := true }
    let s := poke [(rowKey 0 511 0x60, 4, 0x01800200), (rowKey 0 511 0x58, 8, 2 ^ 64 - 1)] (opened .running)
    let t := (takeTrap 0 511 0x0804 0x01800000 p false).run s
    t.pc 0 511 = 0x01800200 ∧ bits (t.errword 0 511) 11 7 = 31 ∧ t.rowLe 0 511 0x68 2 = 0x0804
    ∧ ((takeTrap 0 511 0x0804 0x01800000 p true).run s).code 0 511 = 5
    ∧ ((takeTrap 0 511 0x0804 0x01800000 p false).run (opened .running)).code 0 511 = 5 := by decide +kernel

/-- Rows 0 and 1 of the gang in a state, none of them open, with WAITK k. -/
def closed (code waitk : Nat) : State :=
  poke [(rowKey 0 0 0, 8, code + waitk * 2 ^ 16), (rowKey 0 0 8, 8, 0x01800000 + 0x01800100 * 2 ^ 32)] (inGang State.reset)

theorem wit_RowRequests :
    ((List.range 7).all fun c => !(closed c 0).holds 0 0 && (closed c 0).code 0 0 == c) = true
    ∧ (closed 6 0).waitk 0 0 = 0 ∧ (closed 6 1).waitMet 0 0 = true ∧ (opened .running).isOpen 0 0 = true
    ∧ ((opened .running).row? 0 0).isSome = true ∧ (closed 1 0).started 0 0 = true
    ∧ (let s := { closed 0 0 with gangs := [{ gang0 with dispatched := false }] }
       s.started 0 0 = false ∧ gives (exec (.runreq 0 0) s) (fun t => t.code 0 0 == 0) = true)
    ∧ gives (exec (.runreq 0 0) (closed 0 0)) (fun t => t.code 0 0 == 1) = true
    ∧ gives (exec (.stopreq 0 0) (closed 3 1)) (fun t => t.code 0 0 == 6) = true
    ∧ gives (exec (.redir 0 0) (closed 3 1)) (fun t => t.code 0 0 == 1 && t.pc 0 0 == 0x01800100) = true
    ∧ gives (exec (.redir 0 0) (opened .running)) (fun t => bit (t.rowLe 0 0 0 8) 12) = true
    ∧ gives (exec (.stopreq 0 0) (opened .running)) (fun t => bit (t.rowLe 0 0 0 8) 11) = true
    ∧ gives (exec (.runreq 0 0) (opened .running)) (fun t => (t.row? 0 0).any fun r => r.held == [.request true false false]) = true := by
  decide +kernel

/-- A change of the record of row 0, and of the cycle. -/
def row0 (g : RowSt → RowSt) (s : State) : State := { s with rows := s.rows.map fun r => if r.1 = 0 then (0, g r.2) else r }

theorem wit_RowsRun :
    gives (exec (.waitWake 0 0) (row0 (fun r => { r with wake := true }) (closed 3 1))) (fun t => t.code 0 0 == 1 && t.waitk 0 0 == 0) = true
    ∧ gives (exec (.rowAged 0 0) { closed 1 0 with cycle := 2048 }) (fun t => (t.row? 0 0).any (·.aged)) = true
    ∧ gives (exec (.rowCloseComplete 0 0) { opened (.closing 4) with cycle := 5 }) (fun t => !t.isOpen 0 0) = true
    ∧ (let s := closed 1 0
       leastBy (s.openKey 0) ((s.readyRows 0 0).filter fun r => s.couldOpen 0 r (s.bankSlots 0 0)) = some 0
       ∧ bit (s.bar 0 0x10068 8) 63 = false ∧ (s.coreSt 0).stopping = none
       ∧ gives (exec (.activation 0 0) s) (fun t => t.code 0 0 == 2 && (t.slot? 0 0).any fun x => x.phase == .opening 0 && x.inst.start == 4) = true)
    ∧ (let s := opened .running fun x => { x with header := [0, 0x400 + 0x5, 0, 0], reads := [0] }
       ((s.slot? 0 0).any fun l => l.inst.readOf 0 == 4 && (l.inst.reads.find? fun k => l.inst.readOf k < 32 && l.inst.readOf k % 4 == 0) == some 0) = true
       ∧ gives (exec (.headerRead 0 0 0) s) (fun t => (t.slot? 0 0).any fun x => x.inst.reads == [] && x.inst.toks.getLast?.any
          fun k => k.dest == 5 && k.from? == 64) = true) := by decide +kernel

theorem wit_BlocksEnd :
    gives (exec (.blockCommit 0 0) { opened (.commit 2) with cycle := 2 }) (fun t => (t.slot? 0 0).any fun x => x.phase == .boundary 3) = true
    ∧ (let s : State := { opened (.commit 2) (fun x => { x with exit := some (exitOf .br 0x01800100 0 0) }) with cycle := 2 }
       ((s.slot? 0 0).any fun l => l.inst.lastPass && l.inst.effects.isEmpty) = true
       ∧ gives (exec (.blockCommit 0 0) s) (fun t => (t.slot? 0 0).any fun x => x.next.any fun n => n.pc == 0x01800100) = true)
    ∧ (let s : State := { opened (.commit 2) (fun x => { x with header := [2 ^ 12 + 2 ^ 13, 0, 0, 0] }) with cycle := 2 }
       ((s.slot? 0 0).any fun l => !l.inst.lastPass && l.inst.effects.isEmpty) = true
       ∧ gives (exec (.blockCommit 0 0) s) (fun t => (t.slot? 0 0).any fun x => x.phase == .running && x.inst.pass == 1 && x.inst.start == 4) = true)
    ∧ ((opened (.boundary 0)).slot? 0 0).any (fun l => l.boundaries < 64) = true
    ∧ (let f : Check := { code := 0x0104, tvalid := false, tidx := 0, twe := false, cycle := 0, commit := false }
       gives (exec (.preciseTrap 0 0) (opened (.trap 0) fun x => { x with failed := some f })) (fun t => t.code 0 0 == 5 && t.rowLe 0 0 0x68 2 == 0x0104) = true)
    ∧ (let s := opened .running fun x => { x with ins := [], toks := [], fired := [], reads := [] }
       s.stalled 0 0 = true ∧ gives (exec (.blockStall 0 0) s) (fun t => (t.slot? 0 0).any fun x => (x.inst.failed.map (·.code)) == some 0x0108) = true)
    ∧ (let long (s : State) : State := { s with slots := s.slots.map fun x => { x with boundaries := 64 } }
       let s := long (opened (.boundary 0))
       let t := long (poke [(rowKey 0 1 0, 1, 1)] (opened (.boundary 0)))
       ((t.readyRows 0 0).any fun r => t.couldOpen 0 r ((t.bankSlots 0 0).filter fun x => x.rid != 0)) = true
       ∧ gives (exec (.quantumEnd 0 0) t) (fun u => u.code 0 0 == 1 && (u.slot? 0 0).any fun x => x.phase == .closing 1) = true
       ∧ ((s.readyRows 0 0).any fun r => s.couldOpen 0 r ((s.bankSlots 0 0).filter fun x => x.rid != 0)) = false
       ∧ gives (exec (.quantumEnd 0 0) s) (fun u => (u.slot? 0 0).any fun x => x.boundaries == 0) = true)
    ∧ (let s := poke [(rowKey 0 0 0, 1, 2)] (opened .running)
       ((s.slot? 0 0).any fun l => !l.inst.atomicDone && l.inst.effects.isEmpty && l.inst.waits.isEmpty && l.inst.exit.isNone) = true
       ∧ s.code 0 0 = 2 ∧ gives (exec (.forcedClose 0 0) s) (fun t => t.code 0 0 == 1 && (t.slot? 0 0).any fun x => x.phase == .closing 1) = true) := by
  decide +kernel

/-! ### Witnesses: the mesh and tasks -/

/-- Row 0 of the gang on core 0 as an origin, with dispatch number 1, and a machine with one message from it. -/
def org0 : Origin := { Origin.device 0 with core := 0, rid := 0, gang := 1, seq := 1 }

def sent (dst : Nat) (p : Payload) (s : State) : State :=
  row0 (fun r => { r with outst := 1, nextSeq := 2, pending := [1] }) { s with mesh := [{ src := 0, dst := dst, org := org0, pay := p }] }

def pb (l : List (Nat × Nat)) : List PByte := l.map fun x => { addr := x.1, byte := BitVec.ofNat 8 x.2, poison := false }

/-- A remote AOP that a remote store of lower LSID overlaps, and one whose lower LSID has not fired. -/
theorem wit_RemoteAtomics :
    let i : Instr := .aop 1 0 0 .always .i64
    let s (g : Inst → Inst) : State :=
      let s := inRow i [sc 0x80000000, sc 1]
      { s with slots := s.slots.map fun x => { x with inst := g x.inst } }
    let overlapped := s fun x => { x with effects := [(0, 0, .remote 0 0 8 (pb [(4, 1)]))] }
    let early := s fun x => { x with ins := x.ins ++ [((encode (.sts 0 0 .always .n32)).getD (32, 0)).2] }
    fires i overlapped (fun f => rangeOf f.a.num == some .remote && f.slot.inst.lowerFired f.lsid && f.slot.inst.failed.isNone
      && f.slot.inst.overlapsStore f.core f.lsid 0 ((List.range 8).map (0 + ·))
      && (overlapped.atomicChecks f.core f.rid f.a.num 8).all (·.1)) = true
    ∧ fires i early (fun f => !f.slot.inst.lowerFired f.lsid && (early.atomicChecks f.core f.rid f.a.num 8).all (·.1)) = true := by
  decide +kernel

theorem wit_AccessesArrive :
    (let s := sent 0 (.store 0x80 1 (pb [(0x80, 7)]) none) (opened .running)
     s.deliverable 0 = true ∧ bit (s.bar 0 0x10068 8) 63 = false ∧ s.accepts 0 (pb [(0x80, 7)]) = true ∧ s.holds 0 0 = true
     ∧ s.requests 0 (pb [(0x80, 7)]) = [] ∧ s.armedAt 0 0x80 = none ∧ ridOf 0x80 = 0
     ∧ gives (exec (.remoteStoreArrival 0) s) (fun t => t.loc 0 0x80 1 == 0 && (t.row? 0 0).any fun r => r.held.length == 1) = true)
    ∧ (let s := sent 0 (.store 0x80 1 (pb [(0x80, 7)]) none) (inGang State.reset)
       s.deliverable 0 = true ∧ s.holds 0 0 = false ∧ s.accepts 0 (pb [(0x80, 7)]) = true
       ∧ gives (exec (.remoteStoreArrival 0) s) (fun t => t.loc 0 0x80 1 == 7) = true)
    ∧ (let op : AtomicOp := { cas := false, fn := 0, ty := .i32, addr := 0x80, b := 5, c := 0, poison := false }
       let s := sent 0 (.atomic op none) (inGang State.reset)
       s.deliverable 0 = true ∧ s.holder 0 [0x80, 0x81, 0x82, 0x83] = none
       ∧ gives (exec (.remoteAtomicArrival 0) s) (fun t => t.loc 0 0x80 4 == 5) = true
       ∧ (sent 0 (.atomic op none) (opened .running)).holder 0 [0x80, 0x81, 0x82, 0x83] = some 0
       ∧ s.accepts 0 (pbytes 0x80 4 0 false) = true
       ∧ (let full := row0 (fun r => { r with held := List.replicate 32 (.request true false false) ++ List.replicate 32 (.atomic org0 op .remote) }) s
          full.accepts 0 (pbytes 0x80 4 0 false) = false ∧ gives (exec (.remoteAtomicArrival 0) full) (fun t => t.mesh.length == 1) = true))
    ∧ (let s := inGang State.reset
       (s.armedAt 0 0x1FFFFF).isNone ∧ s.guarded (Space.loc 0 0x1FFFFF) = false ∧ s.row? 0 (ridOf 0x1FFFFF) = none
       ∧ ((performStore 0 org0 (pb [(0x1FFFFE, 1), (0x1FFFFF, 2)]) fun _ _ => .done).run s).loc 0 0x1FFFFE 2 = 0x0201)
    ∧ (let s := { inGang State.reset with guard := [Space.loc 0 0x30000] }
       s.armedAt 0 0x30001 = none ∧ s.guarded (Space.loc 0 0x30001) = true)
    ∧ (let s := poke [(Space.loc 0 0x30000, 1, 8)] (inGang State.reset)
       let t : State := { s with cores := Tab.set s.cores 0 { s.coreSt 0 with armed := [0x30000] } }
       t.armedAt 0 0x3001F = some 0x30000) := by decide +kernel

/-- Line 0 of cluster 0 belongs to the gang. -/
def lineOf (s : State) : State := poke [(lineKey 0 0, 4, 3 * 2 ^ 30)] s

theorem wit_SignalsArrive :
    let c : Cond := { code := 0x0803, lsid := 15, acore := 255, ainfo := 0x1FFFFF, isExit := true }
    (sent 0 (.ack none false) (inGang State.reset)).deliverable 0 = true
    ∧ (let s := sent 0 (.ack none true) (inGang State.reset)
     s.deliverable 0 = true ∧ gives (exec (.acknowledgement 0) s) (fun t => (t.row? 0 0).any fun r => r.outst == 0 && r.pending == []) = true)
    ∧ gives (exec (.asyncCondition 0) (sent 0 (.cond c) (opened .running))) (fun t => (t.row? 0 0).any fun r => r.held == [.cond c]) = true
    ∧ gives (exec (.asyncCondition 0) (sent 0 (.cond c) (inGang State.reset))) (fun t => bits (t.errword 0 0) 63 48 == 0x0803
        && bits (t.errword 0 0) 33 13 == 0x1FFFFF) = true
    ∧ ([.arrive 0x30000 1 0 0, .signal 0 0 0, .lineStore 0 0 (pb [(0, 1)]), .flip 0 0x30000].all fun p =>
        (sent 0 p (lineOf (inGang State.reset))).deliverable 0) = true
    ∧ (let s := inGang State.reset
       (s.coreSt 0).cdone = [] ∧ bit (s.loc 0 0x30000 1) 4 = false
       ∧ gives (exec (.flipBroadcast 0) (sent 0 (.flip 0 0x30000) s)) (fun t => t.mesh == []) = true)
    ∧ (let s := poke [(Space.loc 1 0x40000, 1, 8 + 32), (Space.loc 1 0x40004, 4, 2), (Space.loc 1 0x4000C, 4, 0x30000), (rowKey 1 0 0, 8, 3 + 2 ^ 16 + 2 ^ 36 + 0x40000 * 2 ^ 40)]
         { inGang State.reset with gangs := [{ gang0 with cores := 2 }], rows := [(0, RowSt.fresh 1), (512, RowSt.fresh 1)]
                                   cores := [(1, { CoreSt.reset with armed := [0x40000], cdone := [0x40000] })] }
       let s := { s with mesh := [{ src := 0, dst := 1, org := org0, pay := .flip 0 0x30000 }] }
       s.deliverable 0 = true ∧ (s.coreSt 1).cdone = [0x40000] ∧ s.loc 1 0x4000C 4 = 0 * 2 ^ 24 + 0x30000 ∧ s.loc 1 (0x40000 + 8) 4 < s.loc 1 (0x40000 + 4) 4
       ∧ s.waitsOn 1 0 = some (1, 0x40000, 1)
       ∧ gives (exec (.flipBroadcast 0) s) (fun t => t.loc 1 0x40000 1 == 9 && (t.coreSt 1).cdone == [] && (t.row? 1 0).any (·.wake)
           && t.mesh.map (fun m => (m.dst, m.pay)) == [(0, .flip 1 0x40000)]) = true)
    ∧ (let s := sent 0 (.ack (some c) true) (opened .running)
       s.deliverable 0 = true ∧ gives (exec (.asyncCondition 0) s) (fun t => (t.row? 0 0).any fun r => r.outst == 0 && r.pending == [] && r.held == [.cond c]) = true)
    ∧ (let s := inGang State.reset
       let data : List PByte := pb [(0xFC0, 5), (0xFC1, 0), (0xFC2, 0), (0xFC3, 0x80)]
       let s' := poke [(Space.bar 0 0x1207E, 2, 0x8000)] s
       s.lineOwned 0 0 0 0 false = true ∧ s.le (lineKey 0 0 + 4) 2 = 0 ∧ (lineOf s).lineOwned 0 0 0 0 false = true
       ∧ s'.lineOwned 0 63 0 0 false = true
       ∧ ((storeLine org0 0 0xFC0 data fun _ => .done).run s').le (lineKey 0 63) 4 = 0x80000005
       ∧ (poke [(lineKey 0 0 + 4, 2, 1)] s).le (lineKey 0 0 + 4) 2 ≠ 0)
    ∧ (let held (dst : Nat) : State := { inGang State.reset with
          mesh := [{ src := 0, dst := dst, org := { org0 with seq := 2 }, pay := .arrive 0x30000 1 0 0, held := true, waits := 2 }] }
       ([0, 1].all fun d => (held d).ackedBelow 0 0 2 && !(held d).stepHeld { org0 with seq := 2 }) = true
       ∧ (let s := row0 (fun r => { r with arrived := [1] }) (held 0)
          s.stepHeld { org0 with seq := 2 } = true ∧ s.ackedBelow 0 0 2 = true
          ∧ gives (exec (.drainArrivalSend 0) s) (fun t => t.mesh.all fun m => m.pay != .arrive 0x30000 1 0 0) = true)
       ∧ gives (exec (.drainArrivalSend 0) (held 1)) (fun t => t.mesh.any fun m => !m.held) = true)
    ∧ (let g := { gang0 with superstep := true, snapshots := [0] }
       let s := row0 (fun r => { r with arrived := [3] }) { inGang State.reset with gangs := [g] }
       s.gang? 1 = some g ∧ g.allCores = [0]
       ∧ gives (exec (.stepStartNotice 1) s) (fun t => (t.row? 0 0).any (·.arrived.isEmpty)) = true) := by decide +kernel

/-- R365: the log of a core that has written bytes of the granules 0, 0x10 and 0x31 since its snapshot point, and one of granule 0x32 with the value that it
held: the bits are cleared, the prior contents copied to
0x48_1000 + 0x3100 of the core's part of the context area, and the bits of 0x31 and 0x32 set. -/
theorem test_superstep_log :
    (let x : Snap := { gang := 1, core := 0, cells := [], poison := [], opsKey := [], tiles := [], rows := [], forks := [], pool := [],
                       armed := [], cdone := [], sentUp := [], logged := none, touched := [0x3207] }
     let s : State := { poke [(Space.loc 0 0x3105, 1, 7), (Space.bar 0 0x14010, 8, 4096), (Space.bar 0 0x11000, 2, 0x8000)] (inGang State.reset) with
       snaps := [x] }
     let t := keepLogs.run s
     s.areaUsable 0 = true ∧ s.unlogged x = [0x32, 0, 0x10, 0x31] ∧ t.snaps = [{ x with logged := some [0x32, 0, 0x10, 0x31], touched := [] }]
     ∧ (t.accs.any fun a => a.pa == 0x1000 + 0x100000 + 0x481000 + 0x3100 && a.data.length == 64 && a.data.all (· == (0, false))) = true
     ∧ (t.accs.any fun a => a.pa == 0x1000 + 0x100000 + 0x480000 && a.data.getD 6 (0, false) == (6, false)) = true
     ∧ (keepLogs.run t).accs.length = t.accs.length) := by decide +kernel

/-- Row 0 of the gang as the parent of a fork of the tasks 0 and 1, rows 1 and 0, with its join cell at 0x30000. -/
def forked : ForkSt := { core := 0, cell := 0x30000, parent := 0, tasks := [(0, 0, 0x31000), (0, 1, 0x32000)], slots := [], wait := false }

theorem wit_WaitsAndTasks :
    (let w : Nat × Wait := (0, .window (.lds 0 0 0 .always .i32) (sc 0x01000000) (.sca none) none)
     (((opened .running fun x => { x with waits := [w] }).slot? 0 0).any fun l => l.inst.waits.head? == some w) = true)
    ∧ (let w : Nat × Wait := (0, .queue 0x53 0x20000 (vc 1) none (some 0))
       let s := queue0 0 4 0xFFFFFFFF (opened .running fun x => { x with waits := [w] })
       ((s.slot? 0 0).any fun l => l.phase == .running && l.inst.lowerFired ((l.inst.shapeAt 0).lsid.getD 0)) = true)
    ∧ (let s := opened .running fun x => { x with waits := [(0, .search 2 [] 0)] }
       s.nextIdle 0 0 (s.searchSize 0 0 0) [] = some (0, 1) ∧ (s.poolPlace 0 (s.searchSize 0 0 0) 64).isSome = true
       ∧ ((s.slot? 0 0).any fun l => l.inst.viewsKnown 0) = true
       ∧ gives (exec (.forkClaim 0 0) s) (fun t => (t.row? 0 1).any fun r => r.claim == some (0, 0)) = true)
    ∧ (let s := opened .running fun x => { x with waits := [(0, .search 1 [(0, 1)] 0)], exit := some (exitOf .forkr 0x01800000 1 1) }
       (s.poolPlace 0 16 16).isSome = true
       ∧ gives (exec (.forkSearchComplete 0 0 0) s) (fun t => (t.slot? 0 0).any fun l => l.inst.exit.any fun e => e.tasks == [(0, 1)]) = true)
    ∧ (let s := poke [(rowKey 0 1 0, 1, 1)] (opened .running fun x => { x with waits := [(0, .search 1 [] 0)], exit := some (exitOf .forkr 0x01800000 1 1) })
       s.nextIdle 0 0 (s.searchSize 0 0 0) [] = none
       ∧ gives (exec (.forkSearchComplete 0 0 0) s) (fun t => (t.slot? 0 0).any fun l => (l.inst.failed.map (·.code)) == some 0x0206) = true)
    ∧ (let s := { sent 0 (.start 1 7 (2 ^ 64 - 1) 255 256 255 0x1FFFF0 0x01800010) (inGang State.reset) with forks := [] }
       s.deliverable 0 = true ∧ ((s.row? 0 1).any fun r => r.held.isEmpty && r.view == 0) = true
       ∧ (s.forkAt 255 0x1FFFF0).isNone)
    ∧ (let s := row0 id (sent 0 (.start 0 7 9 255 256 255 0x1FFFF0 0x01800010) (row0 (fun r => { r with view := 0x1FFFC0 }) (inGang State.reset)))
       ((s.row? 0 0).any fun r => r.held.isEmpty && r.view + 64 == 0x200000) = true
       ∧ ((s.row? 0 0).any fun r => r.early == 0) = true
       ∧ gives (exec (.taskStart 0) s) (fun t => t.code 0 0 == 1 && t.rowLe 0 0 0x98 8 == 256 && t.pc 0 0 == 0x01800010) = true)
    ∧ gives (exec (.claimRelease 0) (sent 0 (.release 0) (row0 (fun r => { r with claim := some (0, 1) }) (inGang State.reset))))
        (fun t => (t.row? 0 0).any fun r => r.claim.isNone) = true
    ∧ (let s := { sent 0 (.merge 0 0x30000 1 1) (inGang State.reset) with forks := [forked] }
       let here : State := { s with mesh := s.mesh.map fun m => { m with waits := 1 } }
       s.deliverable 0 = true ∧ s.chainTurn 0 = true ∧ here.chainTurn 0 = true ∧ s.loc 0 0x30007 1 ≠ 2 ∧ bit (s.loc 0 0x31000 1) 0 = false
       ∧ gives (exec (.mergeStep 0) s) (fun t => t.mesh.all fun m => m.waits == 1) = true
       ∧ gives (exec (.mergeStep 0) here) (fun t => t.loc 0 0x31000 1 == 1) = true
       ∧ (poke [(Space.loc 0 0x30007, 1, 2)] s).loc 0 0x30007 1 = 2) := by decide +kernel

/-! ### Witnesses: the matrix array -/

/-- The image of a whole tile, and of a vector of 128 elements at a local address. -/
def accImg (ty tile : Nat) : List Byte := leBytes 4 (ty + 16 + 128 + tile * 0x10000 * 2048) ++ leBytes 4 0 ++ leBytes 4 (128 + 128 * 65536) ++ leBytes 20 0
def vecImg (ty addr : Nat) : List Byte := leBytes 4 (ty + addr * 2048) ++ leBytes 4 0 ++ leBytes 4 128 ++ leBytes 20 0

def opaCmd (op cap : Nat) (fill : Bool) (images : List (List Byte)) : OpaCmd :=
  { op := op, fill := fill, imm := 0, cap := cap, b := 0, c := 0, images := images, bytes := [], poisoned := false, tenant := 0, entry := none }

/-- Tile 3 of core 0 is transient, with GEN 0 and watermark 128, and one command is queued. -/
def tiled (st : Nat) (s : State) : State := poke [(ownKey 0 3, 8, st * 2 ^ 62 + 128 * 65536)] s
def queued (e : OpaEntry) (s : State) : State := { s with cores := Tab.set s.cores 0 { s.coreSt 0 with opa := [e] } }
def entry0 (c : OpaCmd) (g : OpaEntry → OpaEntry := id) : OpaEntry := g (.fresh 0 0 3 org0 c)

theorem wit_Capabilities :
    let s := tiled 1 (inGang State.reset)
    s.tileState 0 3 = 1 ∧ s.tileGen 0 3 = 0 ∧ s.tileTenant 0 3 = 0 ∧ s.unpinning 0 3 = false
    ∧ (opaCmd 0x73 0 false [accImg 6 3]).tile = 3 ∧ (opaCmd 0x73 0 false [accImg 6 3]).right = 48
    ∧ s.opaCheck 0 { opaCmd 0x73 (2 ^ 56) false [accImg 6 3] with tenant := 0 } = some 0x0503 := by decide +kernel

/-- What a capability of tile 3 with the right MUL holds, whatever its check value. -/
theorem cap_fields (m : Nat) (h : m < 2 ^ 32) :
    (0x810000 * 2 ^ 32 + m) / 2 ^ 32 = 0x810000 ∧ (0x810000 * 2 ^ 32 + m) % 2 ^ 32 = m ∧ bits (0x810000 * 2 ^ 32 + m) 63 56 = 0
    ∧ bit (0x810000 * 2 ^ 32 + m) 55 = true ∧ bits (0x810000 * 2 ^ 32 + m) 47 32 = 0 ∧ bit (0x810000 * 2 ^ 32 + m) 48 = true
    ∧ bit (0x810000 * 2 ^ 32 + m) 49 = false := by
  simp only [bits, bit, beq_iff_eq, beq_eq_false_iff_ne, ne_eq]
  omega

/-- A minted capability passes the first checks. -/
theorem opaCheck_minted (s : State) (c : OpaCmd) (hp : c.poisoned = false) (ht : c.tenant = 0)
    (hc : c.cap = 0x810000 * 2 ^ 32 + s.capCheck 0x810000 0) (h3 : c.tile = 3) (hst : s.tileState 0 3 = 1) (hg : s.tileGen 0 3 = 0)
    (hte : s.tileTenant 0 3 = 0) (hu : s.unpinning 0 3 = false) :
    s.opaCheck 0 c = if !bit c.cap c.right then some 0x0504 else if !c.typesOk then some 0x0505 else if !s.shapeOk 0 c then some 0x0506
      else if c.bar % 32 ≠ 0 then some 0x0507 else none := by
  obtain ⟨h1, h2, h4, h5, h6, -, -⟩ := cap_fields (s.capCheck 0x810000 0) (Nat.mod_lt _ (by decide))
  rw [← hc] at h1 h2 h4 h5 h6
  norm_num at h1 h2
  simp [State.opaCheck, hp, ht, h3, h1, h2, h4, h5, h6, hst, hg, hte, hu]

/-- A tile's owner and its minted capability: MXZ passes, MXDRN lacks its right, a wrong type and a wrong shape are refused. -/
theorem wit_CapabilityPasses :
    let s := tiled 1 (inGang State.reset)
    let cap := s.mintCap 0 8 1 0 0
    s.opaCheck 0 (opaCmd 0x73 cap false [accImg 6 3]) = none ∧ s.opaCheck 0 (opaCmd 0x72 cap false [accImg 6 3]) = some 0x0504
    ∧ s.opaCheck 0 (opaCmd 0x73 cap false [accImg 1 3]) = some 0x0505
    ∧ s.opaCheck 0 (opaCmd 0x73 cap false [(accImg 6 3).set 9 1]) = some 0x0506 := by
  intro s cap
  have hs : s.tileState 0 3 = 1 ∧ s.tileGen 0 3 = 0 ∧ s.tileTenant 0 3 = 0 ∧ s.unpinning 0 3 = false := by decide +kernel
  have hc : cap = 0x810000 * 2 ^ 32 + s.capCheck 0x810000 0 := rfl
  obtain ⟨-, -, -, -, -, h6, h7⟩ := cap_fields (s.capCheck 0x810000 0) (Nat.mod_lt _ (by decide))
  rw [← hc] at h6 h7
  have h (op : Nat) (l : List (List Byte)) (h3 : (opaCmd op 0 false l).tile = 3) :=
    opaCheck_minted s (opaCmd op cap false l) rfl rfl hc h3 hs.1 hs.2.1 hs.2.2.1 hs.2.2.2
  have ok (op : Nat) (l : List (List Byte)) : (opaCmd op cap false l).typesOk = (opaCmd op 0 false l).typesOk
    ∧ s.shapeOk 0 (opaCmd op cap false l) = s.shapeOk 0 (opaCmd op 0 false l) ∧ (opaCmd op cap false l).bar = (opaCmd op 0 false l).bar
    ∧ (opaCmd op cap false l).right = (opaCmd op 0 false l).right ∧ (opaCmd op cap false l).cap = cap := ⟨rfl, rfl, rfl, rfl, rfl⟩
  have t (l : List (List Byte)) (h3 : (opaCmd 0x73 0 false l).tile = 3) := h 0x73 l h3
  refine ⟨?_, ?_, ?_, ?_⟩
  · rw [h _ _ (by decide +kernel), (ok _ _).1, (ok _ _).2.1, (ok _ _).2.2.1, (ok _ _).2.2.2.1, (ok _ _).2.2.2.2]
    have f : (opaCmd 0x73 0 false [accImg 6 3]).right = 48 ∧ (opaCmd 0x73 0 false [accImg 6 3]).typesOk = true
      ∧ s.shapeOk 0 (opaCmd 0x73 0 false [accImg 6 3]) = true ∧ (opaCmd 0x73 0 false [accImg 6 3]).bar = 0 := by decide +kernel
    simp [f, h6]
  · rw [h _ _ (by decide +kernel), (ok _ _).2.2.2.1, (ok _ _).2.2.2.2]
    have f : (opaCmd 0x72 0 false [accImg 6 3]).right = 49 := by decide +kernel
    simp [f, h7]
  · rw [h _ _ (by decide +kernel), (ok _ _).1, (ok _ _).2.2.2.1, (ok _ _).2.2.2.2]
    have f : (opaCmd 0x73 0 false [accImg 1 3]).right = 48 ∧ (opaCmd 0x73 0 false [accImg 1 3]).typesOk = false := by decide +kernel
    simp [f, h6]
  · rw [h _ _ (by decide +kernel), (ok _ _).1, (ok _ _).2.1, (ok _ _).2.2.2.1, (ok _ _).2.2.2.2]
    have f : (opaCmd 0x73 0 false [(accImg 6 3).set 9 1]).right = 48 ∧ (opaCmd 0x73 0 false [(accImg 6 3).set 9 1]).typesOk = true
      ∧ s.shapeOk 0 (opaCmd 0x73 0 false [(accImg 6 3).set 9 1]) = false := by decide +kernel
    simp only [f.1, f.2.1, f.2.2, h6, Bool.not_true, Bool.not_false, Bool.false_eq_true, if_false, if_true]

theorem wit_CommandsStart :
    let s := tiled 1 (inGang State.reset)
    (let t := sent 0 (.opa (opaCmd 0x73 0 false [accImg 6 3])) s
     t.deliverable 0 = true ∧ bit (t.bar 0 0x10068 8) 63 = false ∧ ((t.coreSt 0).opa.length) = 0 ∧ (t.row? 0 0).isSome = true)
    ∧ (let full : State := { s with cores := Tab.set s.cores 0 { s.coreSt 0 with opa := List.replicate 32 (entry0 (opaCmd 0x73 0 false [accImg 6 3])) } }
       gives (exec (.opaCommandAccept 0) (sent 0 (.opa (opaCmd 0x73 0 false [accImg 6 3])) full)) (fun t => t.mesh.length == 1) = true)
    ∧ (let t := sent 0 (.opa (opaCmd 0x73 (2 ^ 56) false [accImg 6 3])) (tiled 1 (opened .running))
       t.opaCheck 0 (opaCmd 0x73 (2 ^ 56) false [accImg 6 3]) = some 0x0503 ∧ t.isOpen 0 0 = true
       ∧ gives (exec (.opaCommandAccept 0) t) (fun u => (u.coreSt 0).opa == [] && (u.row? 0 0).any fun r => r.held == [.cond
          { code := 0x0503, lsid := 0, acore := 0, ainfo := 0x73 + 128 * 3, isExit := false }]) = true)
    ∧ (([(0x73, false), (0x75, false), (0x72, false), (0x76, false), (0x74, false)].all fun o =>
        let e := entry0 (opaCmd o.1 0 o.2 [vecImg 6 0x30000, accImg 6 3])
        { queued e s with cycle := 4 }.opaReady 0 e
          && { queued e s with guard := [Space.loc 0 0x40000] }.guardTouched 0 e.cmd == none) = true)
    ∧ (let e := entry0 (opaCmd 0x76 0 false [vecImg 6 0x30000, vecImg 6 0x31000, accImg 6 3])
       let t : State := { queued e s with cycle := 4, guard := [Space.loc 0 0x30000] }
       t.guardTouched 0 e.cmd = some 0x30000
       ∧ gives (exec (.opaCommandStart 0 0) t) (fun u => (u.opaEntry 0 0).any fun x => x.told == [(0, 0x0805)]) = true)
    ∧ gives (exec (.opaCommandStart 0 0) { queued (entry0 (opaCmd 0x74 0 false [accImg 6 3])) s with cycle := 4 }) (fun t => t.tileState 0 3 == 2) = true
    ∧ (let e := entry0 (opaCmd 0x74 0 true [accImg 6 3])
       let t : State := { queued e (tiled 2 State.reset) with cycle := 4 }
       t.opaReady 0 e = true ∧ t.tileState 0 3 = 2 ∧ t.gangOn? 0 = none
       ∧ gives (exec (.opaCommandStart 0 0) t) (fun u => u.tileState 0 3 == 0 && u.tileGen 0 3 == 1) = true) := by decide +kernel

theorem wit_CommandResults :
    (let e := entry0 (opaCmd 0x73 0 false [accImg 6 3]) fun e => { e with started := some 0, done := 7 }
     let s : State := { queued e (tiled 1 (inGang State.reset)) with cycle := 8 }
     s.opaEntry 0 0 = some e ∧ e.cmd.writes = true ∧ (e.finalAt 7).any (· ≤ 8) = true ∧ s.pausedFill 0 e = false)
    ∧ (let c := { opaCmd 0x71 0 false [accImg 4 0, accImg 4 0, accImg 0 3] with b := 2 ^ 48 }
       tidType (c.img 0) = 4 ∧ tidType (c.img 1) = 4 ∧ tidType c.acc = 0 ∧ c.kn = 1) := by decide +kernel

theorem wit_CommandsEnd :
    (let e := entry0 (opaCmd 0x73 0 false [accImg 6 3]) fun e => { e with started := some 0, done := 8 }
     let s := poke [(ownKey 0 3 + 16, 8, 65536)] (queued e (tiled 2 (inGang State.reset)))
     s.opaEntry 0 0 = some e ∧ s.tileState 0 3 = 2 ∧ s.qcnt 0 3 = 1
     ∧ gives (exec (.opaCommandComplete 0 0) s) (fun t => t.qcnt 0 3 == 0 && (t.opaEntry 0 0).isNone) = true)
    ∧ (let e := entry0 (opaCmd 0x77 0 true [accImg 6 3]) fun e => { e with seq := 7, started := some 0, done := 8 }
       let s := poke [(ownKey 0 3 + 16, 8, 5 * 2 ^ 32 + 65536)] (queued e (tiled 2 (inGang State.reset)))
       s.opaEntry 0 7 = some e ∧ e.cmd.writes = true ∧ s.le (ownKey 0 3 + 20) 4 = 5
       ∧ gives (exec (.opaCommandComplete 0 7) s) (fun t => t.le (ownKey 0 3 + 20) 4 == 5 && (t.opaEntry 0 7).isNone) = true)
    ∧ (let e := entry0 (opaCmd 0x76 0 false [vecImg 6 0x30000, vecImg 6 0x31000, accImg 6 3]) fun e => { e with started := some 0 }
       let s := queued e (tiled 2 (inGang State.reset))
       e.cmd.drains = true ∧ e.cmd.mem = false ∧ s.groupBegins 0 e = true ∧ e.rowDue 0 0 = false ∧ (s.coreSt 0).clears = []
       ∧ gives (exec (.drainGroupWrite 0 0) s) (fun t => (t.opaEntry 0 0).any fun x => x.begun == [0]) = true)
    ∧ (let e := entry0 (opaCmd 0x76 0 false [vecImg 6 0x30000, vecImg 6 0x31000, accImg 6 3]) fun e =>
         { e with started := some 0, begun := [0], src := List.replicate 512 0 }
       let s : State := { queued e (tiled 2 (inGang State.reset)) with cycle := 15 }
       let t : State := { queued e (tiled 2 (inGang State.reset)) with cycle := 16 }
       s.groupBegins 0 e = false ∧ e.rowDue 0 15 = false ∧ t.groupBegins 0 e = true ∧ e.row < e.cmd.rowCount
       ∧ (let d := { e with begun := List.replicate 8 0 }
          (queued d t).groupBegins 0 d = false ∧ d.rowDue 0 16 = true ∧ t.hasRooms 0 [(queued d t).rowOut 0 d 0, (queued d t).binBytes 0 d 0] = true))
    ∧ (let e := entry0 { opaCmd 0 0 false [] with bytes := pb [(0x0123FFFF, 7)] }
       let s := queued e (tiled 2 (inGang State.reset))
       (s.opaBefore 0 0).all (fun x => x.tile != 3) = true
       ∧ gives (exec (.windowStorePerform 0 0) s) (fun t => t.loc 0 0x0123FFFF 1 == 7 && (t.opaEntry 0 0).isNone) = true) := by decide +kernel

/-- No queue descriptor lies in a window. -/
theorem wit_NoQueueInWindows : ∀ a, 0x01200000 ≤ a → (inGang State.reset).inQueue 0 a = false := by
  intro a h
  have g : (inGang State.reset).gangOn? 0 = some gang0 := by decide +kernel
  simp only [State.inQueue, g, Option.any_some, gang0, List.any_cons, List.any_nil, Bool.or_false, Bool.and_eq_false_iff, decide_eq_false_iff_not]
  omega

/-! ### Witnesses: global memory -/

/-- One access of function 0 from core 0 to VA 0, in a state. -/
def acc0 (st : AccState) : Acc :=
  { id := 0, core := 0, entry := 0, func := 0, elem := 0, va := 0x1000, size := 64, write := false, loc := 0x30000, pa := 0, key := 0, ord := 0,
    cached := false, gtp := false, state := st, since := 0, urgent := false, deadline := none, inval := false, absent := 0, turn := (0, 0), lead := false, last := false,
    epoch := 0, old := false, gone := false, slack := 0, target := 0, unread := false, data := [], bad := none, left := 0, got := 0 }

/-- A machine with that access; and page tables of function 0 in host memory whose leaf for VA 0x1000 is `e`. -/
def accessing (a : Acc) (s : State) : State := { s with accs := [a] }
def paged (e : Nat) (s : State) : State :=
  let root := 2 ^ 51
  poke [(Space.bar 0 0x14000, 8, root), (Space.phys root, 8, root + 0x1001), (Space.phys (root + 0x1000), 8, root + 0x2001),
    (Space.phys (root + 0x2000), 8, root + 0x3001), (Space.phys (root + 0x3008), 8, e)] s

/-- A function whose pages from 0 on are a run of CONT entries (R309). -/
def pagedRun (s : State) : State :=
  let root := 2 ^ 51
  poke ((List.range 16).map fun j => (Space.phys (root + 0x3000 + 8 * j), 8, 2 ^ 51 + 0x100000 + 4096 * j + 15)) (paged 0 s)

theorem wit_Translation :
    (let s := accessing (acc0 .miss) State.reset
     s.cachedXlat 0 0 0x1000 = none ∧ (s.func 0).tags = [] ∧ gives (exec (.walkStart 0) s) (fun t => t.accs.any fun a => a.state == .walk) = true)
    ∧ (let s := accessing (acc0 .miss) { State.reset with funcs := [(0, { FuncSt.reset with tags := [{ tag := 7, va := 0, level := 0 }] })] }
       gives (exec (.walkStart 0) s) (fun t => t.accs.any fun a => a.state == .page (some 7)) = true)
    ∧ (let s := accessing (acc0 .walk) (paged 0 State.reset)
       s.walk 0 0x1000 = .absent 0 ∧ gives (exec (.walkComplete 0) s) (fun t => t.accs.any fun a => a.state == .page none) = true)
    ∧ (State.reset.walk 0 0x1000 = .fault 10 3)
    ∧ (let e := 2 ^ 51 + 0x5000 + 8 + 3
       let s := accessing (acc0 .walk) (paged e State.reset)
       s.walk 0 0x1000 = .leaf e 0 ∧ s.leafFault 0 0 e false = none
       ∧ gives (exec (.walkComplete 0) s) (fun t => t.accs.any fun a => a.state == .ready && a.pa == 2 ^ 51 + 0x5000) = true)
    ∧ (let s := accessing (acc0 .walk) (pagedRun State.reset)
       (∀ j, j < 16 → s.walk 0 (j * 4096) = .leaf (2 ^ 51 + 0x100000 + 4096 * j + 15) 0)
       ∧ s.runEntry 0 0x1000 (2 ^ 51 + 0x10100F) 0 7 = 2 ^ 51 + 0x10100F)
    ∧ (let s := State.reset
       ((List.range 64).all fun i => s.leaseState i == 0) = true
       ∧ s.leafFault 0 0 (2 ^ 51 + 0xC0) false = some 3 ∧ s.leafFault 0 1 (2 ^ 51 + 0x1000) false = some 4 ∧ s.leafFault 0 0 0x1008 false = some 5
       ∧ s.leafFault 0 0 (2 ^ 51) false = some 6 ∧ s.leafFault 0 0 (2 ^ 51) true = some 7 ∧ s.leafFault 0 3 (2 ^ 51 + 16) true = none)
    ∧ (let s := poke [(Space.bar 0 0x58, 8, 2 ^ 51), (Space.bar 0 0x60, 8, 16 * 2 ^ 32)] (accessing (acc0 (.page none)) State.reset)
       s.ringRoom 0 0x60 = 15 ∧ (s.func 0).tags = []
       ∧ gives (exec (.pageRequestRecord 0) s) (fun t => (t.func 0).tags == [{ tag := 0, va := 0, level := 0 }] && (t.func 0).msix == [2]
           && t.le (hostKey (2 ^ 51) + 8) 8 == 0x1000 && bits (t.bar 0 0x60 8) 31 16 == 1) = true)
    ∧ (let s := accessing (acc0 (.page (some 7))) { State.reset with funcs := [(0, { FuncSt.reset with tags := [{ tag := 7, va := 0, level := 0 }] })] }
       s.barOpen 0 = true ∧ gives (exec (.prresp 0 7 0) s) (fun t => t.accs.any fun a => a.state == .miss) = true
       ∧ ([1, 2, 3].all fun st => gives (exec (.prresp 0 7 st) s) fun t => t.accs == []) = true)
    ∧ (let x : Xlat := { func := 0, va := 0, size := 4096, entry := 0, pa := 0 }
       let s := { State.reset with cores := [(0, { CoreSt.reset with tlb := [x] })] }
       s.invals = [] ∧ gives (exec (.tlbinv false 0 4095) s) (fun t => (t.coreSt 0).tlb == [] && t.invals.all t.invalDone) = true) := by
  decide +kernel

/-- R404: a walk that ended at V = 0 holds its record while an earlier one is under way, and a fifth walk waits for a walker. -/
theorem test_walks_in_order :
    (let walk (i : Nat) : Acc := { acc0 .walk with id := i, va := 65536 * i, turn := (i, i) }
     let s := { State.reset with accs := (List.range 5).map walk }
     s.hasWalker (walk 3) = true ∧ s.hasWalker (walk 4) = false)
    ∧ (let a := { acc0 (.page none) with id := 1, va := 65536, turn := (1, 1) }
       let s (st : AccState) := poke [(Space.bar 0 0x58, 8, 2 ^ 51), (Space.bar 0 0x60, 8, 16 * 2 ^ 32)] { State.reset with accs := [acc0 st, a] }
       gives (exec (.pageRequestRecord 1) (s .walk)) (fun t => (t.func 0).tags == []) = true
       ∧ gives (exec (.pageRequestRecord 1) (s .ready)) (fun t => (t.func 0).tags == [{ tag := 0, va := 1, level := 0 }]) = true) := by decide +kernel

/-- A Halyard command of row 0 of the gang, in entry 0 of core 0. -/
def command (g : HEntry → HEntry) (s : State) : State :=
  { s with cores := Tab.set s.cores 0 { s.coreSt 0 with halyard := [(0, g { HEntry.blank { org0 with seq := 0 } with
      rsv := false, kind := 1, len := 65537, src := 0x1000, dst := 0x30000 })] } }

theorem wit_ChunksAndHostReads :
    (let s := command (fun h => { h with len := 64 }) (inGang State.reset)
     (s.entry? 0 0).any (fun h => s.chunkReady 0 h && (s.pairOf 0 h.org.rid).isNone && h.kind == 1 && !h.acq && !h.await && h.pairEntry.isNone) = true
     ∧ gives (exec (.chunkStart 0 0) s) (fun t => (t.entry? 0 0).any fun h => h.inFlight && h.chunk && h.deadline == 16) = true)
    ∧ (let s := command (fun h => { h with chunk := true, inFlight := true }) (inGang State.reset)
       (s.entry? 0 0).any (fun h => !h.lastChunk && !h.stopped) = true
       ∧ gives (exec (.chunkComplete 0 0) s) (fun t => (t.entry? 0 0).any fun h => h.prog == 65536) = true)
    ∧ (let s := command (fun h => { h with chunk := true, inFlight := true, prog := 65536 }) (inGang State.reset)
       (s.entry? 0 0).any (fun h => h.lastChunk && h.late.isEmpty && h.org.seq == 0 && h.rbar == 0 && h.sbar == 0) = true
       ∧ gives (exec (.chunkComplete 0 0) s) (fun t => (t.entry? 0 0).isNone) = true)
    ∧ (let s := { accessing (acc0 (.host false)) (command (fun h => { h with chunk := true }) (inGang State.reset)) with time := 50000000 }
       s.acc? 0 = some (acc0 (.host false)) ∧ isHost ({ acc0 (.host false) with pa := 2 ^ 51 }).pa = true ∧ gives (exec (.hostReadTimeout 0) s) (fun t => t.accs == []) = true
       ∧ gives (exec (.hostReadCompletion 0 1) s) (fun t => t.accs == []) = true)
    ∧ (let s := accessing (acc0 .walk) (paged 0 State.reset)
       s.walkReads 0 0x1000 = [3, 2, 1, 0] ∧ bit (s.bar 0 0x10068 8) 63 = false ∧ gives (exec (.hostReadCompletion 0 1) s) (fun t => t.accs == []) = true) := by decide +kernel

/-- Any bytes of one 64-byte unit; here the last of a unit. -/
theorem wit_KeyedMemory :
    0x7FFFFFFFFF / 64 = (0x7FFFFFFFFF + 1 - 1) / 64 ∧ 0x7FFFFFFFFF < 2 ^ 39 ∧ State.reset.deadRegions = [] ∧ State.reset.poison = []
    ∧ ((physWrite (some 5) 0x7FFFFFFFFF [(7, false)]).run { State.reset with physKey := [(Space.phys (0x7FFFFFFFFF / 64 * 64), 5)] }).physRead (some 5) false 0x7FFFFFFFFF 1 = [(7, false)] := by decide +kernel

theorem wit_HbmStacks :
    (let a := { acc0 (.admission 0) with deadline := some 4 }
     let s := accessing a State.reset
     bit (s.bar 0 0x10068 8) 63 = false ∧ s.streaks = [] ∧ stackOf a.pa = 0
     ∧ gives (exec (.deadlineUrgent 0) s) (fun t => t.accs.any fun a => a.urgent) = true)
    ∧ (let a := acc0 (.bank 0 (bankOfPa 0 % 64))
       a.state = .bank (stackOf a.pa) (bankOfPa a.pa % 64) ∧ State.reset.remapping = [] ∧ regionOf a.pa ∉ State.reset.filling ∧ a.deadline = none
       ∧ a.gone = false)
    ∧ (accessing (acc0 .lpddr) State.reset).accs = [acc0 .lpddr]
    ∧ (let s := { State.reset with deadRegions := [262143], filling := [0] }
       s.bar 0 0x10070 1 = 0 ∧ s.rehome = [] ∧ 262143 ∈ s.deadRegions
       ∧ gives (exec (.refmarkLive 262143 0) s) (fun t => t.deadRegions == [] && t.filling.contains 262143) = true
       ∧ gives (exec (.zeroFillComplete 0) s) (fun t => t.filling == []) = true
       ∧ gives (exec (.refmarkNotLive 0 0) s) (fun t => t.physRead (some 9) false 0 1 == [(0, false)]) = true)
    ∧ (let s := { State.reset with rowErrors := [(7 * 2 ^ 38 + 1, 1)], activations := [(bankRow (64 * 7 + 63) 5, 9)] }
       gives (exec (.patrolScrub 7) s) (fun t => t.rowErrors == []) = true
       ∧ gives (exec (.neighbourRefresh 7 63 5) s) (fun t => t.activations == [] && t.le (hbmstat 7 0) 4 == 1) = true)
    ∧ (let a := acc0 (.bank 7 63)
       gives (exec (.neighbourRefresh 7 63 5) (accessing a State.reset)) (fun t => t.accs == [{ a with slack := 160 }]) = true)
    ∧ (let c : RowCopy := { stack := 7, bank := 63, row := 5, cycle := 100, time := 100 }
       let s : State := { accessing (acc0 (.bank 7 63)) State.reset with remapping := [c], cycle := 300, time := 2100 }
       s.bound (acc0 (.bank 7 63)) = 6344 ∧ (dueWork s 2099).contains (.remapCopyComplete 7 63 5) = true
       ∧ gives (exec (.remapCopyComplete 7 63 5) s) (fun t => t.remapping == [] && t.accs.any fun a => a.slack == 200) = true)
    ∧ gives (exec (.quarantine 7) (inGang State.reset)) (fun t => bit (t.bar 0 0x10070 8) 60) = true
    ∧ gives (exec .quarantineComplete { State.reset with quarantine := some 7 }) (fun t => t.quarantine == none) = true := by
  refine ⟨by decide +kernel, ⟨rfl, rfl, by decide, rfl, rfl⟩, rfl, by decide +kernel, by decide +kernel, by decide +kernel, by decide +kernel,
    by decide +kernel, by decide +kernel⟩

/-- Bank rows of regions that are live, and, where one lies in some region, of none that is. -/
theorem wit_RowsDead (row : Nat) :
    State.reset.rowDead row = false ∧ (Config.rowRegions row ≠ [] → ({ State.reset with deadRegions := Config.rowRegions row }).rowDead row = true) := by
  refine ⟨?_, fun h => ?_⟩
  · unfold State.rowDead
    cases Config.rowRegions row <;> rfl
  · simp [State.rowDead, h]

theorem live_of (l : List Nat) : ({ State.reset with deadRegions := l }).liveRegions = 262144 - l.length := rfl

/-- A stack with a spare and one without, as its fuses say, and regions that fit. -/
theorem wit_SparesAndRegions :
    (Config.spareRows 7 % 65536 = 0 → State.reset.spareLeft 7 = 0) ∧ (Config.spareRows 7 % 65536 ≠ 0 → State.reset.spareLeft 7 ≠ 0)
    ∧ ({ State.reset with deadRegions := List.replicate 262144 0 }).liveRegions ≤ rehomeSlots := by
  have h : State.reset.le (hbmstat 7 8) 2 = 0 := by decide +kernel
  refine ⟨fun h' => by simp [State.spareLeft, h, h'], fun h' => by simpa [State.spareLeft, h] using h', ?_⟩
  exact (live_of _).trans_le (by rw [List.length_replicate]; decide)

theorem wit_LeasesAndFabric :
    (let s := poke [(Space.bar 0 (0x12800 + 32 * 63), 8, 2 ^ 62)] State.reset
     s.locked (bits (s.lease 63 0) 21 12) = false ∧ gives (exec (.leaseRevoke 63) s) (fun t => t.leaseState 63 == 2) = true)
    ∧ (let s := poke [(Space.bar 0 (0x12800 + 32 * 63), 8, 2 ^ 62 + 4096)] { State.reset with funcs := [(1, { FuncSt.reset with tdi := 1 })] }
       s.locked (bits (s.lease 63 0) 21 12) = true ∧ gives (exec (.leaseRevoke 63) s) (fun t => t.leaseState 63 == 1) = true)
    ∧ (let s := poke [(Space.bar 0 (0x12800 + 32 * 63), 8, 2 ^ 63), (Space.bar 0 (0x13000 + 32 * 63), 8, 2 ^ 63)] State.reset
       s.leaseState 63 = 2 ∧ s.lease 63 3 = 0 ∧ s.leaseBusy 63 = false ∧ bits (s.export' 63 0) 63 62 = 2
       ∧ gives (exec (.leaseDeadline 63) s) (fun t => t.leaseState 63 == 3) = true
       ∧ gives (exec (.exportDeadline 63) s) (fun t => bits (t.export' 63 0) 63 62 == 3) = true)
    ∧ State.reset.leaseState 0 ≠ 2
    ∧ (let s := poke [(portKey 75 8, 8, 2 ^ 63)] State.reset
       s.portUp 75 = true ∧ s.replayCount 75 = 0 ∧ gives (exec (.flitReplay 75) s) (fun t => t.replayCount 75 == 1 && t.le (portKey 75 0) 4 == 1) = true)
    ∧ (let r : Repair := { unit := 10, index := 75, detail := 0, part := 75 }
       let s := { State.reset with downPorts := [75] }
       s.portUp 75 = false ∧ s.portRepair 75 = none ∧ ({ s with repairs := [r] }).portRepair 75 = some r
       ∧ gives (exec (.portRetrain 75 true) { s with repairs := [r] }) (fun t => t.portUp 75 && t.downPorts == [] && t.applied == [r]) = true)
    ∧ (State.reset.portUp 75 = false ∧ State.reset.downPorts = [] ∧ gives (exec (.portRetrain 75 true) State.reset) (fun t => t.portUp 75) = true)
    ∧ (let p : Packet := { port := 75, tag := 9, write := false, addr := 0x200000, size := 64, data := [], rdev := 3, response := none, refused := 0 }
       let s (tag : Nat) (l : List (Nat × Nat × Nat)) := { poke ([(portKey 75 8, 8, 2 ^ 63), (Space.bar 0 (0x20000 + 512 * 75 + 1), 1, tag)] ++ l) State.reset
          with packets := [p] }
       (s 0 []).tagOk p = false ∧ gives (exec (.fabricIngress 0) (s 0 [])) (fun t => t.sent.any fun q => q.refused == 2) = true
       ∧ (s 2 []).tagOk p = true ∧ (s 2 []).exportOf p = .error 1
       ∧ gives (exec (.fabricIngress 0) (s 2 [])) (fun t => t.sent.any fun q => q.refused == 1) = true
       ∧ (let e := s 2 [(Space.bar 0 0x13000, 8, 2 ^ 62 + 3 * 2 ^ 48 + 9), (Space.bar 0 0x13008, 8, 2 ^ 21), (Space.bar 0 0x13010, 8, 2 ^ 22)]
          e.exportOf p = .ok (2 ^ 22)
          ∧ gives (exec (.fabricIngress 0) e) (fun t => t.sent.any fun q => q.refused == 0 && q.data.length == 64) = true
          ∧ (let w := { p with write := true, data := List.replicate 64 7 }
             e.exportOf w = .ok (2 ^ 22) ∧ w.data.length = 64 ∧ e.deadRegions = []
             ∧ gives (exec (.fabricIngress 0) { e with packets := [w] }) (fun t => t.le (Space.phys (2 ^ 22 + 63)) 1 == 7) = true)
          ∧ (let w := { p with response := some 0, refused := 2 }
             let r := { accessing (acc0 (.fabric 75 false)) e with packets := [w] }
             r.acc? 0 = some (acc0 (.fabric 75 false)) ∧ r.tagOk w = true
             ∧ gives (exec (.fabricIngress 0) r) (fun t => t.accs == []) = true
             ∧ (let u := { accessing (acc0 (.fabric 75 false)) (command (fun h => { h with chunk := true }) (inGang e)) with packets := [w] }
                (u.entry? 0 0).any (fun h => h.pairEntry.isNone) = true ∧ u.rehome = [] ∧ gives (exec (.fabricIngress 0) u) (fun t => (t.entry? 0 0).any fun h =>
                  h.late == [{ code := 0x0803, lsid := h.org.lsid, acore := 0, ainfo := 2, isExit := false }]) = true))))
    ∧ (let s := { accessing (acc0 (.fabric 75 false)) (command (fun h => { h with chunk := true }) (inGang State.reset)) with time := 1000000 }
       s.acc? 0 = some (acc0 (.fabric 75 false)) ∧ gives (exec (.fabricTimeout 0) s) (fun t => t.accs == []
         && (t.entry? 0 0).any fun h => h.late.any fun c => c.ainfo == 3) = true
       ∧ gives (exec (.fabricTimeout 0) { s with time := 999999 }) (fun t => t.accs.length == 1) = true) := by decide +kernel

/-! ### Witnesses: the device -/

/-- Function 0 owns every core; VA 0x1000 is a page of host memory with the descriptor of queue 0: its ring at VA 0x1100, 4 records, HEAD 0, TAIL `tail`,
enabled, class 7. -/
def hosted (tail : Nat) (s : State) : State :=
  let pa := Space.phys (2 ^ 51 + 0x5000)
  poke [(Space.bar 0 0x08, 8, 0x1000), (Space.bar 0 0x11802, 2, 0x8000), (pa, 8, 0x1100), (pa + 8, 2, 4), (pa + 0x0C, 2, tail), (pa + 0x0E, 1, 1),
    (pa + 0x0F, 1, 7)] (paged (2 ^ 51 + 0x5000 + 16 + 8 + 3) s)

def isBytes (r : CapRead) : Bool := match r with | .bytes _ => true | _ => false

/-- Queue 0 of function 0 in slot 0. -/
def slot0 (head tail : Nat) : CapSlot :=
  { func := 0, qid := 0, ring := 0x1100, size := 4, enable := true, nopre := false, cls := 7, head := head, tail := tail, headt := 0, prio := none,
    skip := 0, skipped := false, unusable := false, mending := false, dirty := false }

theorem wit_QueuesMapped :
    (let s := hosted 0 State.reset
     s.barOpen 0 = true ∧ s.bar 0 0x08 8 ≠ 0 ∧ isBytes (s.fetch 0 (s.descVa 0 0) 64) = true ∧ isHbm (2 ^ 51 + 0x500C) = false
     ∧ s.capPage 0 (s.descVa 0 0 + 0x0C) true = .found (2 ^ 51 + 0x500C) none
     ∧ gives (exec (.qnotify 0 0 1) s) (fun t => (t.slotOf 0 0).any fun x => x.1 == 0 && x.2.tail == 1 && x.2.cls == 7) = true)
    ∧ (let s := { hosted 1 State.reset with qpend := [(0, 0)] }
       gives (exec .queueMapPending s) (fun t => t.qpend == [] && (t.slotOf 0 0).any fun x => x.2.tail == 1) = true)
    ∧ (let s := { hosted 1 State.reset with capSlots := [(5, slot0 0 1)] }
       s.inBinding 5 = false ∧ s.capPage 0 (s.descVa 0 0 + 0x0A) true = .found (2 ^ 51 + 0x500A) none
       ∧ gives (exec (.qnotify 0 0 3) s) (fun t => t.capSlots == [(5, slot0 0 3)]) = true)
    ∧ ({ State.reset with funcs := [(0, { FuncSt.reset with tdi := 3 })] }).barOpen 0 = false ∧ State.reset.bar 0 0x08 8 = 0 := by decide +kernel

/-- The same with a record at the head of the ring: one stage of one row, on one core, whose entry block is at 0x01800000; or with a stage count of 0. -/
def recorded (stages : Nat) : State :=
  let r := Space.phys (2 ^ 51 + 0x5100)
  poke [(Space.bar 0 0x14000, 8, 2 ^ 63 + 2 ^ 51), (r, 2, 1), (r + 5, 1, 4), (r + 6, 1, stages), (r + 8, 2, 1), (r + 0x0A, 2, 1), (r + 0x0C, 4, 0x40000), (r + 0x10, 4, 0x1000),
    (r + 0x66, 2, 1), (r + 0x68, 4, 0x01800000)] { hosted 1 State.reset with capSlots := [(0, slot0 0 1)] }

theorem wit_GangsBound :
    ([0, 1].all fun n =>
       let s := recorded n
       s.mayBind 0 && (slot0 0 1).count == 1 && match s.fetch 0 0x1100 256 with
         | .bytes bs => (recDeps (bs.map (·.1))).all fun d => s.depMet 0 d.1 d.2
         | _ => false) = true
    ∧ (recorded 1).recordCheck 0 (((recorded 1).headRecord (slot0 0 1)).getD []) = none
    ∧ (recorded 1).placement ((recorded 1).partitions 0) (((recorded 1).headRecord (slot0 0 1)).getD []) = some (0, 0)
    ∧ (recorded 1).groupRoom 0 1 = some 0
    ∧ (recorded 0).recordCheck 0 (((recorded 0).headRecord (slot0 0 1)).getD []) = some 1
    ∧ gives (exec .selectionRound (recorded 0)) (fun t => t.gangs.isEmpty && bits (t.bar 0 0x78 8) 47 40 == 1) = true
    ∧ (let b : Binding := { gang := 1, slot := 0, record := [], go := some 0 }
       let s := { inGang State.reset with binding := [b] }
       (s.capSlot? 0).isNone = true ∧ s.gang? 1 = some gang0 ∧ (s.rows.all fun r => r.1 < 131072) = true
       ∧ gives (exec .gangDispatch s) (fun t => t.code 0 0 == 1 && t.code 0 1 == 1 && t.binding.isEmpty) = true) := by decide +kernel

theorem wit_GangsStopAndEnd :
    (let s := inGang State.reset
     s.barOpen 0 = true ∧ s.binding = [] ∧ gang0.func = 0 ∧ gang0.dispatched = true ∧ s.gang? 1 = some gang0 ∧ s.mesh = [] ∧ s.cores = []
     ∧ s.gangEnds gang0 = false
     ∧ gives (exec (.qcancel 0 0 0) (poke [(rowKey 0 0 0, 1, 1)] s)) (fun t => t.code 0 0 == 6) = true
     ∧ gives (exec (.grelease 0 1) s) (fun t => t.gangs.any (·.released)) = true
     ∧ gives (exec (.gangEnd 1) s) (fun t => t.gangs == [gang0]) = true)
    ∧ (let s := poke [(rowKey 0 0 0, 1, 4), (rowKey 0 1 0, 1, 4)] (inGang State.reset)
       s.gangEnds gang0 = true ∧ gives (exec (.gangEnd 1) s) (fun t => t.gangs.isEmpty && t.rows.isEmpty && t.settled == [(0, 0, 0)]) = true)
    ∧ (let s := { State.reset with capSlots := [(5, slot0 3 1)] }
       s.slotOf 0 0 = some (5, slot0 3 1) ∧ s.capSlot? 5 = some (slot0 3 1)
       ∧ gives (exec (.qcancel 0 0 0) s) (fun t => t.cancelled == [(0, 0, 0)]) = true)
    ∧ gives (exec (.grelease 7 1) (inGang State.reset)) (fun t => decide (t = inGang State.reset)) = true := by decide +kernel

/-- Function 0 has a context area and a live key, and owns every core. -/
def contexted (s : State) : State := poke [(Space.bar 0 0x14010, 8, 0x5000), (Space.bar 0 0x11000, 2, 0x8000), (Space.bar 0 0x11802, 2, 0x8000)] s

theorem wit_StopsRequested :
    State.reset.stopBusy = false ∧ State.reset.areaUsable 0 = false ∧ State.reset.resumeRefused 0 = true
    ∧ (contexted State.reset).areaUsable 0 = true ∧ (contexted State.reset).resumeRefused 0 = false ∧ (contexted State.reset).stopBusy = false
    ∧ (contexted State.reset).contextCores 0 = List.range 256
    ∧ (poke [(tstat, 4, 2 ^ 31)] State.reset).stopBusy = true
    ∧ gives (exec .d3hotEntry State.reset) (·.d3hot) = true
    ∧ (let s := contexted (inGang State.reset)
       s.gangs.find? (fun g => !(s.func g.func).halted) = some gang0 ∧ s.areaUsable 0 = true ∧ (inGang State.reset).areaUsable 0 = false
       ∧ gives (exec .d3hotEntry s) (fun t => !t.d3hot && t.stop.isSome && t.pendingOps == [.d3hotEntry]) = true)
    ∧ gives (exec .d3hotEntry { State.reset with stop := some { func := 0, resume := false, time := 0, cores := [], flushed := false, buffer := [], saved := [] } })
        (fun t => t.pendingOps == [.d3hotEntry]) = true
    ∧ gives (exec (.tstopStop 0) State.reset) (fun t => bit (t.bar 0 0x1002C 4) 30) = true := by decide +kernel

/-- A message in the mesh. -/
def pairless : Msg := { src := 0, dst := 1, org := org0, pay := .arrive 0x30000 1 0 0 }

/-- A stop, or a resume, of function 0 on cores 0 and 1, at time 0. -/
def stopAt (resume flushed : Bool) (saved : List Nat) : StopSt :=
  { func := 0, resume := resume, time := 0, cores := [0, 1], flushed := flushed, buffer := [], saved := saved }

theorem wit_StopsPerformed :
    (let s := { contexted (inGang State.reset) with stop := some (stopAt false false []) }
     (s.coreSt 0).stopping = none ∧ s.binding = []
     ∧ gives (exec (.stopCycle 0) s) (fun t => (t.coreSt 0).stopping == some 0 && (t.func 0).halted) = true
     ∧ gives (exec .stopAbandon { s with time := 1000000 }) (fun t => t.stop.isNone && bit (t.bar 0 0x1002C 4) 30) = true)
    ∧ (let c : CoreSt := { CoreSt.reset with stopping := some 0 }
       let s := { contexted (inGang State.reset) with stop := some (stopAt false false []), cores := [(0, c), (1, { c with quiet := true })] }
       (s.coreSt 0).quiet = false ∧ s.coreQuiet 0 = true
       ∧ gives (exec (.coreQuiescent 0) s) (fun t => (t.coreSt 0).quiet && t.stop == some (stopAt false true [])) = true)
    ∧ (let s := { opened .running with stop := some (stopAt false false []), time := 8192 }
       gives (exec (.stopDeadline 0) s) (fun t => (t.slot? 0 0).any fun x => x.phase == .closing 1) = true)
    ∧ (let s := { contexted State.reset with stop := some (stopAt true false []) }
       s.resumeRefused 0 = false ∧ s.contexts = [] ∧ gives (exec .resumeTime s) (fun t => t.stop.isNone && !(t.func 0).halted) = true
       ∧ ({ State.reset with stop := some (stopAt true false []) }).resumeRefused 0 = true) := by decide +kernel

/-- A saved context, and one without cores or rows that is restored. -/
theorem wit_ResumeSaved :
    let x : Saved := { func := 0, cores := [(0, CoreSt.reset)], rows := [(0, RowSt.fresh 1)], gangs := [gang0], groupTab := [], buffer := [], forks := [],
                       snaps := [], guard := [] }
    let s := { contexted State.reset with stop := some (stopAt true false []), contexts := [x] }
    s.resumeRefused 0 = false ∧ s.contexts.find? (fun c => c.func == 0) = some x
    ∧ gives (exec .resumeTime { s with contexts := [{ x with cores := [], rows := [], buffer := [pairless] }] }) (fun t =>
        t.stop.isNone && t.gangs == [gang0] && t.mesh == [pairless] && t.contexts == []) = true := by decide +kernel

/-- Of the save: a core of the context is not saved yet; every core is, with a write outstanding, and without one. -/
theorem wit_ContextSave :
    ((stopAt false true []).flushed = true ∧ 0 ∈ (stopAt false true []).cores ∧ 0 ∉ (stopAt false true []).saved)
    ∧ (∀ c ∈ (stopAt false true [0, 1]).cores, c ∈ (stopAt false true [0, 1]).saved)
    ∧ (let s := { contexted (inGang State.reset) with stop := some (stopAt false true [0, 1]) }
       s.saving 0 = false ∧ (accessing { acc0 .ready with entry := 64 } s).saving 0 = true
       ∧ gives (exec (.contextSave 257) s) (fun t => t.stop.isNone && t.gangs == [] && t.contexts.length == 1) = true) := by decide +kernel

/-- A paired superstep gang with two messages of one number, of copy A and copy B. Their words differ; what the hash of R364 makes of them is not given
(log 23). -/
def pairGang (rollbacks : Nat) : Gang := { gang0 with paired := true, superstep := true, firstB := 1, barrier := some (0, 0x40000), rollbacks := rollbacks }
def pairTag (b : Bool) : PairTag := { gang := 1, grow := 0, n := 0, copyB := b }
def pairMsg (b : Bool) (v : Nat) : Msg := { src := b.toNat, dst := b.toNat, org := org0, pay := .store 0x30000 1 (pb [(0x30000, v)]) none, pair := some (pairTag b) }

theorem wit_PairsAndRollback :
    (let s := { inGang State.reset with gangs := [pairGang 0], mesh := [pairMsg false 1, pairMsg true 2] }
     s.gang? 1 = some (pairGang 0) ∧ s.partner (pairTag false) = some (1, pairMsg true 2)
     ∧ s.pairWords (pairGang 0) (pairMsg false 1) ≠ s.pairWords (pairGang 0) (pairMsg true 2))
    ∧ (let s := { inGang State.reset with gangs := [pairGang 0], mesh := [pairMsg false 1], cycle := 65537 }
       s.partner (pairTag false) = none ∧ gives (exec (.pairTimeout 0) s) (fun t => (t.mesh.all fun m => m.pair != some (pairTag false))
         && t.mem == s.mem && t.work == [.op (.rollback 1)]) = true ∧ (pairGang 0).superstep = true ∧ s.poison = []
       ∧ gives (exec (.pairTimeout 0) { s with cycle := 65536 }) (fun t => t.mesh.length == 1) = true)
    ∧ (let s (n : Nat) (h : Bool) := { inGang State.reset with gangs := [pairGang n], funcs := [(0, { FuncSt.reset with halted := h })] }
       (s 0 false).gang? 1 = some (pairGang 0) ∧ ((s 0 false).func 0).halted = false
       ∧ gives (exec (.rollback 1) (s 0 false)) (fun t => t.gangs.any fun g => g.rollbacks == 1) = true
       ∧ gives (exec (.rollback 1) (s 3 false)) (fun t => bits (t.bar 0 0x78 8) 47 40 == 0x11) = true
       ∧ gives (exec (.rollback 1) (s 0 true)) (fun t => t.gangs.any fun g => g.rollbackDue) = true) := by decide +kernel

/-! ### Witnesses: the host, trust and the machine -/

theorem wit_HostRegisters :
    (let s := State.reset
     s.barOpen 0 = true ∧ ({ s with funcs := [(7, { FuncSt.reset with tdi := 3 })] }).barOpen 7 = false
     ∧ gives (exec (.registerWrite 0 0x10048 4 100) s) (fun t => t.bar 0 0x10048 4 == 600) = true
     ∧ gives (exec (.registerWrite 0 0x10048 2 0xFFFF) s) (fun t => t.bar 0 0x10048 4 == 2600) = true
     ∧ bits (s.keyOwn 1023) 15 14 = 0 ∧ gives (exec (.keyGenerate 5 1023) s) (fun t => t.keyOwn 1023 == 2 ^ 15 + 5 && t.keyOf 1023 == 1) = true
     ∧ bit (s.partEntry 511) 15 = false ∧ (∀ m, m < 512 → bit (s.partEntry m) 15 = false)
     ∧ gives (exec (.parttabWrite 511 0x8005) s) (fun t => t.partEntry 511 == 0x8005) = true)
    ∧ (let s := poke [(Space.bar 0 0x117FE, 2, 0x8005), (Space.bar 0 0x11000, 2, 0xC005)] State.reset
       bits (s.keyOwn 1023) 15 14 ≠ 0 ∧ bit (s.keyOwn 1023) 15 = true ∧ s.locked (s.keyOwn 1023 % 1024) = false
       ∧ bit (s.keyOwn 0) 14 = true ∧ s.keyBusy 0 = false
       ∧ gives (exec (.keyDestroy 1023) s) (fun t => t.keyOwn 1023 == 0xC005) = true
       ∧ gives (exec (.keyErase 0) s) (fun t => t.keyOwn 0 == 5) = true)
    ∧ (let c : SysRecord := { index := 255, posted := true, orphan := false, org := org0, reply := 0x1FFFF8, rbar := 0, answer := none }
       let s := { State.reset with funcs := [(0, { FuncSt.reset with calls := [c], reply := 7 })] }
       s.accepts 0 (pbytes 0x1FFFF8 8 7 false) = true ∧ s.twins 0 = [0] ∧ s.guard = [] ∧ (s.coreSt 0).armed = [] ∧ ((List.range 8).all fun i => !s.isOpen 0 (ridOf (0x1FFFF8 + i))
         && (s.row? 0 (ridOf (0x1FFFF8 + i))).isNone) = true
       ∧ gives (exec (.scdone 0 255) s) (fun t => t.loc 0 0x1FFFF8 8 == 7 && (t.func 0).calls == []) = true
       ∧ gives (exec (.scdone 0 255) { State.reset with funcs := [(0, { FuncSt.reset with calls := [{ c with orphan := true }] })] })
           (fun t => (t.func 0).calls == []) = true)
    ∧ (bit (bits (9 * 2 ^ 52) 55 52) 0 = true ∧ bit (bits (8 * 2 ^ 52) 55 52) 3 = true ∧ ∀ j, j < 3 → bit (bits (8 * 2 ^ 52) 55 52) j = false)
    ∧ (let s := inGang State.reset
       bit (s.partEntry 1) 15 = true ∧ s.nodeBusy 1 = true ∧ bit 5 15 = false
       ∧ gives (exec (.parttabWrite 1 5) s) (fun t => decide (t = s)) = true) := by decide +kernel

theorem wit_ModuleSteps :
    (let s := State.reset
     (s.coreSt 255).disabled = false ∧ s.spareCore 15 = true ∧ clusterOf 255 = 15
     ∧ gives (exec (.coreDisable 255) s) (fun t => (t.coreSt 255).disabled && bit (t.bar 0 0x1009F 1) 7) = true
     ∧ ({ s with repairs := [{ unit := 1, index := 254, detail := 2, part := 254 }] }).spareCore 15 = false)
    ∧ (opened .running).cores.all (fun c => c.1 < 256) = true
    ∧ bits 0xB0070001 31 16 = 0xB007 ∧ bit 0xB0070001 0 = true ∧ gives (exec (.bootctl 0xB0070001) State.reset) (·.staged) = true
    ∧ bits 0xB0060001 31 16 ≠ 0xB007
    := by decide +kernel

/-- A step up, which a cap of 2,600 W always allows, and down: the power, which is open (log 12), lies above a cap of 0 W or it is 0. -/
theorem wit_ClockSteps :
    State.reset.power (min 2250 (State.reset.clock + 75)) ≤ State.reset.bar 0 0x10048 2 ∧ State.reset.barOpen 0 = true
    ∧ (let s := poke [(Space.bar 0 0x10048, 2, 0)] State.reset
       (s.bar 0 0x10048 2 < s.power s.clock ∧ 900 < s.clock) ∨ s.power s.clock ≤ s.bar 0 0x10048 2) := by
  have h : State.reset.bar 0 0x10048 2 = 2600 := by decide +kernel
  refine ⟨h ▸ Nat.min_le_left _ _, by decide +kernel, ?_⟩
  intro s
  have hc : s.clock = 2250 := rfl
  omega

/-- A responder in a state of its connection. -/
def spdmAt (d : Nat) (c : Spdm) : State := { State.reset with spdm := [(d, c)] }

theorem wit_SpdmRequests :
    let c : Spdm := Spdm.reset
    ((spdmAt 12 { c with held := true }).responder 12).held = true ∧ (State.reset.responder 12).held = false ∧ (State.reset.responder 12).version = false
    ∧ ((spdmAt 12 { c with version := true, negotiated := true }).responder 12).negotiated = true
    ∧ ((spdmAt 12 { c with version := true, negotiated := true }).responder 12).exchanged = false
    ∧ ((spdmAt 12 { c with exchanged := true }).responder 12).exchanged = true
    ∧ ((spdmAt 12 { c with session := true }).responder 12).session = true
    ∧ gives (exec (.getVersion 12) State.reset) (fun t => t.responses == [(12, .words [0x13])]) = true
    ∧ gives (exec (.finish 12 true) (spdmAt 12 { c with exchanged := true })) (fun t => (t.responder 12).session) = true
    ∧ gives (exec (.endSession 12) (spdmAt 12 { c with session := true })) (fun t => !(t.responder 12).session) = true
    ∧ (((spdmAt 12 { c with session := true, negotiated := true }).input (.forged 12)).1.responder 12).session = false
    ∧ State.reset.silent 12 = false ∧ State.reset.relayLate 12 = false
    ∧ (let s := { spdmAt 12 { c with relayed := some 5 } with time := 100000005 }
       s.relayLate 12 = true ∧ gives (exec (.relayTimeout 12) s) (fun t => t.responses == [(12, .unspecified)]) = true) := by decide +kernel

/-- Three heartbeat periods, whatever their length (log 10), without a message. -/
theorem wit_Silent : ({ spdmAt 12 { Spdm.reset with session := true } with time := 3 * Config.heartbeatPeriod }).silent 12 = true := by
  have h : Spdm.reset.last = 0 := rfl
  simp [State.silent, State.responder, spdmAt, Tab.find?, h]

theorem wit_Interfaces :
    let s (n : Nat) : State := { spdmAt 0 { Spdm.reset with session := true } with funcs := [(512, { FuncSt.reset with tdi := n })] }
    ((s 0).responder 0).session = true ∧ ((s 0).responder 0).held = false
    ∧ ([0, 1, 2, 3].all fun n => ((s n).func 512).tdi == n) = true
    ∧ gives (exec (.lockInterface 512) (s 0)) (fun t => (t.func 512).tdi == 1) = true
    ∧ gives (exec (.lockInterface 512) (s 1)) (fun t => t.responses == [(0, .invalidState)]) = true
    ∧ gives (exec (.startInterface 512) (s 1)) (fun t => (t.func 512).tdi == 2) = true
    ∧ gives (exec (.stopInterface 512) (s 3)) (fun t => (t.func 512).tdi == 0) = true
    ∧ gives (exec (.tdiError 512) (s 2)) (fun t => (t.func 512).tdi == 3) = true
    ∧ gives (exec (.tdiError 512) (s 3)) (fun t => decide (t = s 3)) = true
    ∧ gives (exec (.getDeviceInterfaceState 512) (s 3)) (fun t => t.responses == [(0, .words [3])]) = true
    ∧ (((s 0).input (.forged 0)).1.responder 0).session = false ∧ ((s 0).input (.forged 0)).1.ide = (s 0).ide := by decide +kernel

/-- The reset state, whose memory is canonical, takes a step; a device step runs; and an instruction without an instance stops. -/
theorem wit_MemoryCanonical : State.reset.Inv ∧ gives (step State.reset) (fun t => t.cycle == 1) = true := by
  refine ⟨?_, by decide +kernel⟩
  unfold State.Inv
  decide +kernel

theorem wit_StepsComplete :
    encode (.gangEnd 0) = none ∧ gives (exec (.gangEnd 0) State.reset) (fun _ => true) = true
    ∧ exec (.fence 0 0 .always) State.reset = .fault .noInstance := by
  refine ⟨by decide +kernel, by decide +kernel, rfl⟩

theorem wit_CyclesPass :
    State.reset.work = [] ∧ gives (step State.reset) (fun t => t.time == 0 && t.timeFrac == 1000) = true
    ∧ (let s := { State.reset with work := [.op .d0Entry] }
       s.work = .op .d0Entry :: [] ∧ gives (step s) (fun t => !t.d3hot && t.work == []) = true)
    ∧ State.reset.recovery = false
    ∧ (let s := poke [(Space.bar 0 0x10057, 1, 0)] State.reset
       s.recovery = true ∧ s.timeFrac < s.clock ∧ gives (step s) (fun t => t.cycle == 1 && t.time == 0 && t.timeFrac == 0) = true)
    ∧ gives (step { State.reset with work := [.stage 3 0] }) (fun t => t.work == []) = true := by decide +kernel

end Sys2Proof.Tests
end

section
/-! The codes of P and STYPE (R197, R200): what the decoder's combinators do with a reserved predicate, and that `decodeWord`
refuses it in every format that has a P field. -/

namespace Sys2Proof

/-- The decoder answers with a reason why the encoding is not an instruction. -/
def Rejects (e : Except Reject Instr) : Prop := ∃ r, e = .error r

@[simp] theorem rejects_error (r : Reject) : Rejects (.error r) := ⟨r, rfl⟩

@[simp] theorem withPred_reserved (k : Pred → Except Reject Instr) : withPred 3 k = .error .reservedPred := rfl

/-- A failed condition rejects on its own, so only the continuation under a condition that holds has to reject. -/
@[simp] theorem rejects_need {b : Prop} [Decidable b] {r : Reject} {k : Except Reject Instr} :
    Rejects (need b r k) ↔ (b → Rejects k) := by
  unfold need
  split <;> simp [*]

/-- An X field rejects where every mode it can hold leads to a rejection. -/
theorem rejects_withX {c : Nat} {k : XMode → Except Reject Instr} (h : ∀ x, Rejects (k x)) : Rejects (withX c k) := by
  unfold withX
  split
  · exact h _
  · exact rejects_error _

/-- A T field rejects where every type it can hold leads to a rejection. -/
theorem rejects_withType {c : Nat} {k : LaneType → Except Reject Instr} (h : ∀ t, Rejects (k t)) : Rejects (withType c k) := by
  unfold withType
  split
  · exact h _
  · exact rejects_error _

/-- A 32-bit word with P = 0b11 is rejected under every OP but MOVI's and MOVIH's, whose formats have no P field (R196, R197). -/
theorem decode32_rejects_reservedPred {w : Nat} (hp : w / 4096 % 4 = 3) (hMovi : w / 2 % 128 ≠ 0x10)
    (hMovih : w / 2 % 128 ≠ 0x11) : Rejects (decode32 w) := by
  unfold decode32
  rw [hp]
  split
  case h_14 h => exact absurd h hMovi
  case h_15 h => exact absurd h hMovih
  all_goals simp [rejects_withX, rejects_withType, apply_ite Rejects]

/-- Settles O4: the codes compute, and a word with bit 0 set is decoded as a 32-bit one. -/
theorem encodingCodes : Obligations.EncodingCodes := by
  refine ⟨⟨rfl, rfl, rfl, rfl, fun w h32 hp hMovi hMovih => ?_⟩, rfl⟩
  have hw : decodeWord w = decode32 w := if_neg (by omega)
  rw [hw]
  exact decode32_rejects_reservedPred hp hMovi hMovih

end Sys2Proof
end

section
/-! Lane-wise integer instructions (R163, R168, R232, R233): what an element of a packed lane word reads as, what a lane of a lane-wise
result holds, and how wrapping and clamping give the elements of VADD, VSUB, VMUL, VFMA and VMULH. -/

namespace Sys2Proof.Machine

/-! ### Integers of a type (R168) -/

theorem two_pow_width (t : LaneType) : (2 : Int) ^ t.width = 2 * 2 ^ (t.width - 1) := by
  cases t <;> rfl

/-- A type has `2 ^ width` numbers, from the least on. -/
theorem intMax_eq (t : LaneType) : intMax t = intMin t + 2 ^ t.width - 1 := by
  unfold intMax intMin
  split
  · rw [two_pow_width]; ring
  · ring

theorem intMin_le_intMax (t : LaneType) : intMin t ≤ intMax t := by
  have : (0 : Int) < 2 ^ t.width := by positivity
  rw [intMax_eq]
  omega

@[simp] theorem laneInt_mod_width (t : LaneType) (x : Nat) : laneInt t (x % 2 ^ t.width) = laneInt t x := by
  simp [laneInt, signed]

/-- An element reads as a number of its type. -/
theorem laneInt_mem_range (t : LaneType) (x : Nat) : intMin t ≤ laneInt t x ∧ laneInt t x ≤ intMax t := by
  have hx : ((x % 2 ^ t.width : Nat) : Int) < 2 ^ t.width := by exact_mod_cast Nat.mod_lt x (by positivity)
  have h2 := two_pow_width t
  have hc : ((2 ^ (t.width - 1) : Nat) : Int) = 2 ^ (t.width - 1) := by push_cast; rfl
  unfold intMin intMax laneInt signed
  by_cases hs : t.isSigned = true
  · simp only [if_pos hs]
    split <;> omega
  · simp only [if_neg hs]
    omega

/-- An element and the number it reads as have the same low bits. -/
theorem laneInt_emod_width (t : LaneType) (x : Nat) : laneInt t x % 2 ^ t.width = (x : Int) % 2 ^ t.width := by
  unfold laneInt signed
  split
  · dsimp only
    split <;> simp
  · simp

@[simp] theorem natCast_wrap (w : Nat) (i : Int) : (wrap w i : Int) = i % 2 ^ w :=
  Int.toNat_of_nonneg (Int.emod_nonneg _ (by positivity))

@[simp] theorem wrap_mod (w : Nat) (i : Int) : wrap w i % 2 ^ w = wrap w i := by
  apply Nat.mod_eq_of_lt
  have : (wrap w i : Int) < 2 ^ w := natCast_wrap w i ▸ Int.emod_lt_of_pos i (by positivity)
  exact_mod_cast this

/-- Two numbers of a type that agree in its low bits are one. -/
theorem eq_of_emod_width {t : LaneType} {i j : Int} (hi : intMin t ≤ i ∧ i ≤ intMax t) (hj : intMin t ≤ j ∧ j ≤ intMax t)
    (h : i % 2 ^ t.width = j % 2 ^ t.width) : i = j := by
  rw [intMax_eq] at hi hj
  have hd : (2 : Int) ^ t.width ∣ i - j := Int.dvd_of_emod_eq_zero (Int.emod_eq_emod_iff_emod_sub_eq_zero.1 h)
  have := Int.eq_zero_of_abs_lt_dvd hd (abs_lt.2 ⟨by omega, by omega⟩)
  omega

/-- The low bits of a number of a type read as that number. -/
theorem laneInt_wrap {t : LaneType} {i : Int} (h : intMin t ≤ i ∧ i ≤ intMax t) : laneInt t (wrap t.width i) = i := by
  refine eq_of_emod_width (laneInt_mem_range t _) h ?_
  rw [laneInt_emod_width, natCast_wrap, Int.emod_emod_of_dvd _ dvd_rfl]

theorem laneWrap_mod (t : LaneType) (sat : Bool) (i : Int) : laneWrap t sat i % 2 ^ t.width = laneWrap t sat i := wrap_mod _ _

/-- Without saturation the low bits are kept. -/
theorem laneWrap_false (t : LaneType) (i : Int) : (laneWrap t false i : Int) = i % 2 ^ t.width := natCast_wrap _ _

/-- With saturation the number is clamped to the type's range. -/
theorem laneInt_laneWrap_true (t : LaneType) (i : Int) :
    laneInt t (laneWrap t true i) = max (intMin t) (min (intMax t) i) :=
  laneInt_wrap ⟨le_max_left _ _, max_le (intMin_le_intMax t) (min_le_left _ _)⟩

/-- The high half of a product of two numbers of a type is a number of the type (R233). -/
theorem fdiv_mul_mem_range {t : LaneType} {a b : Int} (ha : intMin t ≤ a ∧ a ≤ intMax t) (hb : intMin t ≤ b ∧ b ≤ intMax t) :
    intMin t ≤ (a * b).fdiv (2 ^ t.width) ∧ (a * b).fdiv (2 ^ t.width) ≤ intMax t := by
  have hw : (0 : Int) < 2 ^ t.width := by positivity
  rw [Int.fdiv_eq_ediv_of_nonneg _ hw.le, Int.le_ediv_iff_mul_le hw, ← Int.lt_add_one_iff (b := intMax t), Int.ediv_lt_iff_lt_mul hw]
  unfold intMin intMax at *
  by_cases hs : t.isSigned = true
  · simp only [if_pos hs] at *
    have hm : (0 : Int) < 2 ^ (t.width - 1) := by positivity
    rw [two_pow_width]
    generalize (2 : Int) ^ (t.width - 1) = m at *
    have hab : |a * b| ≤ m * m := abs_mul a b ▸
      mul_le_mul (abs_le.2 ⟨ha.1, by omega⟩) (abs_le.2 ⟨hb.1, by omega⟩) (abs_nonneg b) hm.le
    obtain ⟨hlow, hhigh⟩ := abs_le.1 hab
    constructor <;> nlinarith only [hm, hlow, hhigh]
  · simp only [if_neg hs] at *
    generalize (2 : Int) ^ t.width = m at *
    have hlow : 0 ≤ a * b := mul_nonneg ha.1 hb.1
    have hhigh : a * b ≤ (m - 1) * (m - 1) := mul_le_mul ha.2 hb.2 hb.1 (by omega)
    constructor <;> nlinarith only [hw, hlow, hhigh]

/-! ### Elements of a lane word (R163) -/

/-- The elements of an integer type fill a lane. -/
theorem width_mul_elems {t : LaneType} (h : t.isInt = true) : t.width * t.elems = 32 := by
  revert h
  cases t <;> decide

theorem packElems_lt (t : LaneType) (l : List Nat) : packElems t l < 2 ^ (t.width * l.length) := by
  induction l with
  | nil => simp [packElems]
  | cons e es ih =>
    have he := Nat.mod_lt e (Nat.two_pow_pos t.width)
    calc packElems t (e :: es)
        < 2 ^ t.width * (packElems t es + 1) := by simp only [packElems]; rw [Nat.mul_add]; omega
      _ ≤ 2 ^ t.width * 2 ^ (t.width * es.length) := Nat.mul_le_mul_left _ ih
      _ = 2 ^ (t.width * (e :: es).length) := by rw [← Nat.pow_add, List.length_cons]; congr 1; ring

/-- Element `j` of packed elements is the low bits of entry `j`. -/
theorem packElems_div_mod (t : LaneType) (l : List Nat) (j : Nat) :
    packElems t l / 2 ^ (t.width * j) % 2 ^ t.width = l.getD j 0 % 2 ^ t.width := by
  induction l generalizing j with
  | nil => simp [packElems]
  | cons e es ih =>
    cases j with
    | zero => simp [packElems]
    | succ j =>
      have he : (e % 2 ^ t.width + 2 ^ t.width * packElems t es) / 2 ^ t.width = packElems t es := by
        rw [Nat.add_mul_div_left _ _ (Nat.two_pow_pos _), Nat.div_eq_of_lt (Nat.mod_lt _ (Nat.two_pow_pos _)), Nat.zero_add]
      rw [Nat.mul_succ, Nat.add_comm, Nat.pow_add, ← Nat.div_div_eq_div_mul, packElems, he, ih, List.getD_cons_succ]

/-- Element `j` of an element-wise result is the low bits of what the function makes of the operands' elements `j`. -/
theorem elemOf_elementwise {t : LaneType} (h : t.isInt = true) (ws : List Word32) (f : List Nat → Nat × Flags) {j : Nat}
    (hj : j < t.elems) :
    elemOf t (elementwise t ws f).1 j = (f (ws.map fun w => elemOf t w j)).1 % 2 ^ t.width := by
  have hlt := packElems_lt t (((List.range t.elems).map fun j => f (ws.map fun w => elemOf t w j)).map (·.1))
  rw [List.length_map, List.length_map, List.length_range, width_mul_elems h] at hlt
  rw [elementwise, elemOf, BitVec.toNat_ofNat, Nat.mod_eq_of_lt hlt, packElems_div_mod]
  simp [hj]

/-! ### Lanes of a lane-wise result (R227) -/

/-- The word of a token's lane, 0 where the lane is null. -/
def Token.word (k : Token) (n : Nat) : Word32 := ((laneAt k.lanes n).getD (0, false)).1

theorem words_of_gather {ls : List Lane} {ws : List Word32} {p : Bool} (h : gather ls = some (ws, p)) :
    ws = ls.map fun l => (l.getD (0, false)).1 := by
  induction ls generalizing ws p with
  | nil => cases h; rfl
  | cons l ls ih =>
    cases l with
    | none => cases h
    | some x =>
      simp only [gather] at h
      split at h
      · next hg => cases h; rw [ih hg]; rfl
      · cases h

/-- A lane of a lane-wise result that is not null holds what the function makes of the operands' words in that lane. -/
theorem word_of_laneWise {mask : List Bool} {toks : List Token} {g : List Word32 → Word32 × Flags} {n : Nat} {z : Word32} {q : Bool}
    (hn : n < 32) (h : laneAt (laneWise mask toks g).out.lanes n = some (z, q)) : z = (g (toks.map (·.word n))).1 := by
  simp only [laneWise, Token.lanes, laneAt, List.map_map, List.getElem?_map, List.getElem?_range hn, Option.map_some,
    Option.join_some, Function.comp_apply] at h
  split at h
  · split at h
    · next hg =>
      cases h
      rw [words_of_gather hg, List.map_map]
      rfl
    · cases h
  · cases h

/-! ### Flags (R168, R171) -/

theorem orAll_eq_none {l : List Flags} (h : ∀ x ∈ l, x = {}) : Flags.orAll l = {} := by
  rw [List.eq_replicate_of_mem h]
  induction l.length with
  | zero => rfl
  | succ n ih => exact (congrArg (Flags.or {}) ih).trans rfl

theorem flags_elementwise (t : LaneType) (ws : List Word32) {f : List Nat → Nat × Flags} (h : ∀ e, (f e).2 = {}) :
    (elementwise t ws f).2 = {} :=
  orAll_eq_none (by simp [h])

theorem flags_laneWise (mask : List Bool) (toks : List Token) {g : List Word32 → Word32 × Flags} (h : ∀ ws, (g ws).2 = {}) :
    (laneWise mask toks g).flags = {} := by
  refine orAll_eq_none fun x hx => ?_
  simp only [List.map_map, List.mem_map, Function.comp_apply] at hx
  obtain ⟨n, -, rfl⟩ := hx
  split
  · split
    · exact h _
    · rfl
  · rfl

/-! ### Integer lanes (R233) -/

/-- Element `j` of a token's lane as an integer of the type. -/
def Token.elemInt (t : LaneType) (k : Token) (n j : Nat) : Int := laneInt t (elemOf t (k.word n) j)

theorem Token.elemInt_mem_range (t : LaneType) (k : Token) (n j : Nat) :
    intMin t ≤ k.elemInt t n j ∧ k.elemInt t n j ≤ intMax t := laneInt_mem_range t _

/-- Integer lanes raise no flag (R168). -/
theorem flags_intLanes (t : LaneType) (toks : List Token) (o : Opnds) (f : List Int → Nat) : (intLanes t toks o f).flags = {} :=
  flags_laneWise _ _ fun ws => flags_elementwise t ws fun _ => rfl

/-- Each element of a lane of integer lanes is the low bits of what the function makes of the operands' elements. -/
theorem elemOf_intLanes {t : LaneType} (ht : t.isInt = true) {toks : List Token} {o : Opnds} {f : List Int → Nat} {n j : Nat} {z : Word32}
    {q : Bool} (hn : n < 32) (hj : j < t.elems) (h : laneAt (intLanes t toks o f).out.lanes n = some (z, q)) :
    elemOf t z j = f (toks.map fun k => k.elemInt t n j) % 2 ^ t.width := by
  rw [word_of_laneWise hn h, elemOf_elementwise ht _ _ hj]
  simp only [List.map_map]
  rfl

/-- The outcome is a delivery without a flag of a token of which each element of each lane that is not null meets `good`. -/
def DeliversElems (r : Host.Outcome State Fault Refusal) (t : LaneType) (s : State) (f : Fired) (good : Nat → Nat → Nat → Prop) : Prop :=
  ∃ out, r = .next (s.delivers f out)
    ∧ ∀ n j z q, n < 32 → j < t.elems → laneAt out.lanes n = some (z, q) → good n j (elemOf t z j)

/-- An instruction that fires and computes integer lanes delivers elements that are the low bits of what the function makes of the operands'
elements. -/
theorem intLanes_delivers {i : Instr} {t : LaneType} {s : State} {f : Fired} {g : Opnds → Res} {toks : List Token} {e : List Int → Nat}
    (ht : t.isInt = true) (hf : Fires i s f) (hg : g (opnds s f) = intLanes t toks (opnds s f) e) :
    DeliversElems (fireToken i g s) t s f fun n j x => x = e (toks.map fun k => k.elemInt t n j) % 2 ^ t.width := by
  refine ⟨(g (opnds s f)).out, ?_, fun n j z q hn hj hz => ?_⟩
  · rw [fireToken_eq hf, hg, flags_intLanes]
  · rw [hg] at hz
    exact elemOf_intLanes ht hn hj hz

theorem DeliversElems.mono {r : Host.Outcome State Fault Refusal} {t : LaneType} {s : State} {f : Fired}
    {good better : Nat → Nat → Nat → Prop} (h : DeliversElems r t s f better) (hb : ∀ n j e, better n j e → good n j e) :
    DeliversElems r t s f good := by
  obtain ⟨out, hr, hout⟩ := h
  exact ⟨out, hr, fun n j z q hn hj hz => hb n j _ (hout n j z q hn hj hz)⟩

/-- An element is an exact result under X (R233): clamped to the type's range with saturation, else its low bits. -/
def IsExactUnder (x : XMode) (t : LaneType) (i : Int) (e : Nat) : Prop :=
  if x = .rne then laneInt t e = max (intMin t) (min (intMax t) i) else (e : Int) = i % 2 ^ t.width

theorem laneWrap_isExactUnder (x : XMode) (t : LaneType) (i : Int) : IsExactUnder x t i (laneWrap t (x == .rne) i % 2 ^ t.width) := by
  rw [laneWrap_mod, IsExactUnder]
  split
  · next h => simpa [h] using laneInt_laneWrap_true t i
  · next h => simpa [beq_false_of_ne h] using laneWrap_false t i

theorem arith_delivers {i : Instr} {t : LaneType} {s : State} {f : Fired} (op : Arith) (x : XMode) (ht : t.isInt = true)
    (hf : Fires i s f) :
    DeliversElems (fireToken i (arith op t x) s) t s f fun n j => IsExactUnder x t (op.int (f.a.elemInt t n j) (f.b.elemInt t n j)) :=
  (intLanes_delivers ht hf (if_pos ht)).mono fun _ _ _ h => h ▸ laneWrap_isExactUnder x t _

theorem fmaLanes_delivers {i : Instr} {t : LaneType} {s : State} {f : Fired} (x : XMode) (ht : t.isInt = true) (hf : Fires i s f) :
    DeliversElems (fireToken i (fmaLanes t x) s) t s f fun n j =>
      IsExactUnder x t (f.a.elemInt t n j * f.b.elemInt t n j + f.c.elemInt t n j) :=
  (intLanes_delivers ht hf (if_pos ht)).mono fun _ _ _ h => h ▸ laneWrap_isExactUnder x t _

/-- VMULH delivers the high half of the exact product, a number of the type. -/
theorem vmulh_delivers {t1 t0 : Target} {p : Pred} {t : LaneType} {s : State} {f : Fired} (ht : t.isInt = true)
    (hf : Fires (.vmulh t1 t0 p t) s f) :
    DeliversElems (execVmulh t1 t0 p t s) t s f fun n j e =>
      let high := (f.a.elemInt t n j * f.b.elemInt t n j).fdiv (2 ^ t.width)
      laneInt t e = high ∧ intMin t ≤ high ∧ high ≤ intMax t := by
  refine (intLanes_delivers ht hf rfl).mono fun n j e h => ?_
  have hr := fdiv_mul_mem_range (f.a.elemInt_mem_range t n j) (f.b.elemInt_mem_range t n j)
  exact ⟨h ▸ (laneInt_mod_width t _).trans (laneInt_wrap hr), hr⟩

/-- Settles O15: VADD, VSUB and VMUL run `arith`, VFMA `fmaLanes`, and each delivers integer lanes. -/
theorem integerLanes : Obligations.IntegerLanes := by
  intro t x t1 t0 p s f ht _
  exact ⟨arith_delivers .add x ht, arith_delivers .sub x ht, arith_delivers .mul x ht, fmaLanes_delivers x ht, vmulh_delivers ht⟩

end Sys2Proof.Machine
end
